-- ==== Sys2Proof/Word.lean ====
section
/-! DEFINITION. The word types of the CORE (00_scope.md R9, R10): every value is an unsigned word. -/

namespace Sys2Proof

/-- A byte (u8) of memory or of a key, nonce or message (R11). -/
abbrev Byte := BitVec 8

/-- A register, DMA address, or u32 word (R7, REG_W = ADDR_W = LEN_W = 32). -/
abbrev Word := BitVec 32

/-- A u64 word, of the 128-bit block ciphers and of SHA-512. -/
abbrev DWord := BitVec 64

end Sys2Proof
end

