-- ==== Sys2Proof/Syntax.lean ====
section
/-! DEFINITION. The commands of the CORE: one constructor per row of spec/opcode_table.json
(30_encoding.md R303, R312, R320). A command has no operand in its word: its operands are the parameter
registers (R310). -/

namespace Sys2Proof

/-- The ten block-cipher variants, in the order of their VAR numbers (R306). -/
inductive Variant where
  | speck64_96
  | speck64_128
  | speck128_128
  | speck128_192
  | speck128_256
  | simon64_96
  | simon64_128
  | simon128_128
  | simon128_192
  | simon128_256
  deriving DecidableEq, Repr

/-- The three legal codec modes (R308). -/
inductive Mode where
  | le32
  | le64
  | be64
  deriving DecidableEq, Repr

/-- The two directions of the codec (R406). -/
inductive Direction where
  | b2w
  | w2b
  deriving DecidableEq, Repr

/-- The 31 commands (R312). -/
inductive Instr where
  /-- `bc.ctr.speck64_96` (R442). -/
  | bcCtrSpeck64_96
  /-- `bc.ctr.speck64_128` (R443). -/
  | bcCtrSpeck64_128
  /-- `bc.ctr.speck128_128` (R444). -/
  | bcCtrSpeck128_128
  /-- `bc.ctr.speck128_192` (R445). -/
  | bcCtrSpeck128_192
  /-- `bc.ctr.speck128_256` (R446). -/
  | bcCtrSpeck128_256
  /-- `bc.ctr.simon64_96` (R447). -/
  | bcCtrSimon64_96
  /-- `bc.ctr.simon64_128` (R448). -/
  | bcCtrSimon64_128
  /-- `bc.ctr.simon128_128` (R449). -/
  | bcCtrSimon128_128
  /-- `bc.ctr.simon128_192` (R450). -/
  | bcCtrSimon128_192
  /-- `bc.ctr.simon128_256` (R451). -/
  | bcCtrSimon128_256
  /-- `bc.enc.speck64_96` (R492). -/
  | bcEncSpeck64_96
  /-- `bc.enc.speck64_128` (R493). -/
  | bcEncSpeck64_128
  /-- `bc.enc.speck128_128` (R494). -/
  | bcEncSpeck128_128
  /-- `bc.enc.speck128_192` (R495). -/
  | bcEncSpeck128_192
  /-- `bc.enc.speck128_256` (R496). -/
  | bcEncSpeck128_256
  /-- `bc.enc.simon64_96` (R497). -/
  | bcEncSimon64_96
  /-- `bc.enc.simon64_128` (R498). -/
  | bcEncSimon64_128
  /-- `bc.enc.simon128_128` (R499). -/
  | bcEncSimon128_128
  /-- `bc.enc.simon128_192` (R500). -/
  | bcEncSimon128_192
  /-- `bc.enc.simon128_256` (R501). -/
  | bcEncSimon128_256
  /-- `rabbit` (R543). -/
  | rabbit
  /-- `trivium` (R569). -/
  | trivium
  /-- `chacha20` (R599). -/
  | chacha20
  /-- `sha512` (R632). -/
  | sha512
  /-- `rng` (R672). -/
  | rng
  /-- `b2w.le32` (R410). -/
  | b2wLe32
  /-- `b2w.le64` (R411). -/
  | b2wLe64
  /-- `b2w.be64` (R412). -/
  | b2wBe64
  /-- `w2b.le32` (R413). -/
  | w2bLe32
  /-- `w2b.le64` (R414). -/
  | w2bLe64
  /-- `w2b.be64` (R415). -/
  | w2bBe64
  deriving DecidableEq, Repr

/-- Why a word is no command (R302); `truncated` is the byte decoder's own reason, for fewer than four
bytes. -/
inductive Reject where
  | illegalCmd
  | illegalVariant
  | truncated
  deriving DecidableEq, Repr

end Sys2Proof
end

