-- ==== Sys2Proof/WellFormed.lean ====
section
/-! DEFINITION. Well-formedness: what makes the three fields of a command word legal (30_encoding.md R302
to R309), as checks on the raw fields. A term of Instr is legal by construction, so an ill-formed term is
a raw one. -/

namespace Sys2Proof

/-- The fields of a command word (R301), before anything is checked. -/
structure CmdFields where
  rsv : BitVec 20
  var : BitVec 4
  op  : BitVec 8
  deriving DecidableEq, Repr

/-- R305: the reserved field must be 0. -/
def CmdFields.rsvLegal (f : CmdFields) : Bool := f.rsv == 0

/-- R303, R304: the operation codes that are not reserved. -/
def CmdFields.opLegal (f : CmdFields) : Bool := decide (1 ≤ f.op.toNat ∧ f.op.toNat ≤ 9)

/-- R307 to R309: the VAR values legal for an operation code. -/
def CmdFields.varLegal (f : CmdFields) : Bool :=
  if f.op.toNat ≤ 2 then decide (f.var.toNat ≤ 9)
  else if f.op.toNat ≤ 7 then f.var == 0
  else f.var == 0 || f.var == 1 || f.var == 3

/-- A legal command's fields (R312). -/
def CmdFields.wf (f : CmdFields) : Bool := f.rsvLegal && f.opLegal && f.varLegal

end Sys2Proof
end

