-- ==== Sys2Proof/Decode.lean ====
section
/-! DEFINITION. The decoder of command words (30_encoding.md R300 to R312) and the encoder written from
the same tables (R301, R306, R308, R320). -/

namespace Sys2Proof

/-- The fields of a command word (R301). -/
def splitWord (w : Word) : CmdFields :=
  { rsv := w.extractLsb' 12 20, var := w.extractLsb' 8 4, op := w.extractLsb' 0 8 }

/-- The word of three fields (R301). -/
def joinFields (f : CmdFields) : Word := f.rsv ++ f.var ++ f.op

/-- bc.ctr of VAR (R306); none is ILLEGAL_VARIANT (R307). -/
def ctrCommand : Nat → Option Instr
  | 0 => some .bcCtrSpeck64_96
  | 1 => some .bcCtrSpeck64_128
  | 2 => some .bcCtrSpeck128_128
  | 3 => some .bcCtrSpeck128_192
  | 4 => some .bcCtrSpeck128_256
  | 5 => some .bcCtrSimon64_96
  | 6 => some .bcCtrSimon64_128
  | 7 => some .bcCtrSimon128_128
  | 8 => some .bcCtrSimon128_192
  | 9 => some .bcCtrSimon128_256
  | _ => none

/-- bc.enc of VAR (R306); none is ILLEGAL_VARIANT (R307). -/
def encCommand : Nat → Option Instr
  | 0 => some .bcEncSpeck64_96
  | 1 => some .bcEncSpeck64_128
  | 2 => some .bcEncSpeck128_128
  | 3 => some .bcEncSpeck128_192
  | 4 => some .bcEncSpeck128_256
  | 5 => some .bcEncSimon64_96
  | 6 => some .bcEncSimon64_128
  | 7 => some .bcEncSimon128_128
  | 8 => some .bcEncSimon128_192
  | 9 => some .bcEncSimon128_256
  | _ => none

/-- b2w of VAR (R308); none is ILLEGAL_VARIANT. -/
def b2wCommand : Nat → Option Instr
  | 0 => some .b2wLe32
  | 1 => some .b2wLe64
  | 3 => some .b2wBe64
  | _ => none

/-- w2b of VAR (R308); none is ILLEGAL_VARIANT. -/
def w2bCommand : Nat → Option Instr
  | 0 => some .w2bLe32
  | 1 => some .w2bLe64
  | 3 => some .w2bBe64
  | _ => none

/-- A command whose only legal VAR is 0 (R309). -/
def plainCommand (i : Instr) : Nat → Option Instr
  | 0 => some i
  | _ => none

/-- The commands of an operation code, by VAR (R303); none for a reserved code (R304). -/
def operation : Nat → Option (Nat → Option Instr)
  | 1 => some ctrCommand
  | 2 => some encCommand
  | 3 => some (plainCommand .rabbit)
  | 4 => some (plainCommand .trivium)
  | 5 => some (plainCommand .chacha20)
  | 6 => some (plainCommand .sha512)
  | 7 => some (plainCommand .rng)
  | 8 => some b2wCommand
  | 9 => some w2bCommand
  | _ => none

/-- Decoding on the fields, in the order of R302. -/
def decodeFields (f : CmdFields) : Except Reject Instr :=
  if f.rsv = 0 then
    match operation f.op.toNat with
    | none => .error .illegalCmd
    | some byVar =>
      match byVar f.var.toNat with
      | none => .error .illegalVariant
      | some i => .ok i
  else .error .illegalCmd

/-- The total decoder of a 32-bit word (R302). -/
def decodeWord (w : Word) : Except Reject Instr := decodeFields (splitWord w)

/-- The word whose host-bus bytes are these, the first at the lowest address (10_state.md R103). -/
def wordOfBytes (b0 b1 b2 b3 : Byte) : Word := b3 ++ b2 ++ b1 ++ b0

/-- The host-bus bytes of a word (10_state.md R103). -/
def bytesOfWord (w : Word) : List Byte :=
  [w.extractLsb' 0 8, w.extractLsb' 8 8, w.extractLsb' 16 8, w.extractLsb' 24 8]

/-- The decoder of a command word laid out as bytes: the command, and the bytes after it. -/
def decode : List Byte → Except Reject (Instr × List Byte)
  | b0 :: b1 :: b2 :: b3 :: rest =>
    match decodeWord (wordOfBytes b0 b1 b2 b3) with
    | .ok i => .ok (i, rest)
    | .error r => .error r
  | _ => .error .truncated

/-- OP of each command (R303). -/
def Instr.opcode : Instr → BitVec 8
  | .bcCtrSpeck64_96 | .bcCtrSpeck64_128 | .bcCtrSpeck128_128 | .bcCtrSpeck128_192 | .bcCtrSpeck128_256
  | .bcCtrSimon64_96 | .bcCtrSimon64_128 | .bcCtrSimon128_128 | .bcCtrSimon128_192 | .bcCtrSimon128_256 => 0x01#8
  | .bcEncSpeck64_96 | .bcEncSpeck64_128 | .bcEncSpeck128_128 | .bcEncSpeck128_192 | .bcEncSpeck128_256
  | .bcEncSimon64_96 | .bcEncSimon64_128 | .bcEncSimon128_128 | .bcEncSimon128_192 | .bcEncSimon128_256 => 0x02#8
  | .rabbit => 0x03#8
  | .trivium => 0x04#8
  | .chacha20 => 0x05#8
  | .sha512 => 0x06#8
  | .rng => 0x07#8
  | .b2wLe32 | .b2wLe64 | .b2wBe64 => 0x08#8
  | .w2bLe32 | .w2bLe64 | .w2bBe64 => 0x09#8

/-- VAR of each command (R306, R308, R309). -/
def Instr.varField : Instr → BitVec 4
  | .bcCtrSpeck64_96 | .bcEncSpeck64_96 => 0#4
  | .bcCtrSpeck64_128 | .bcEncSpeck64_128 => 1#4
  | .bcCtrSpeck128_128 | .bcEncSpeck128_128 => 2#4
  | .bcCtrSpeck128_192 | .bcEncSpeck128_192 => 3#4
  | .bcCtrSpeck128_256 | .bcEncSpeck128_256 => 4#4
  | .bcCtrSimon64_96 | .bcEncSimon64_96 => 5#4
  | .bcCtrSimon64_128 | .bcEncSimon64_128 => 6#4
  | .bcCtrSimon128_128 | .bcEncSimon128_128 => 7#4
  | .bcCtrSimon128_192 | .bcEncSimon128_192 => 8#4
  | .bcCtrSimon128_256 | .bcEncSimon128_256 => 9#4
  | .rabbit | .trivium | .chacha20 | .sha512 | .rng => 0#4
  | .b2wLe32 | .w2bLe32 => 0#4
  | .b2wLe64 | .w2bLe64 => 1#4
  | .b2wBe64 | .w2bBe64 => 3#4

/-- The fields of each command; RSV is 0 (R301, R305). -/
def Instr.fields (i : Instr) : CmdFields := { rsv := 0, var := i.varField, op := i.opcode }

/-- The command word (R301, R320). -/
def encode (i : Instr) : Word := joinFields i.fields

/-- The command word as host-bus bytes. -/
def encodeBytes (i : Instr) : List Byte := bytesOfWord (encode i)

/-- What the decoder reads from the instruction whose bits are `w`, numbered as the opcode table numbers
them (a command word is 32 bits; the bits above `nbits` are 0). -/
def decodeTableWord (nbits w : Nat) : Option Instr :=
  match decode (bytesOfWord (BitVec.ofNat 32 (w % 2 ^ nbits))) with
  | .ok (i, _) => some i
  | .error _ => none

end Sys2Proof
end

