-- ==== Sys2Proof/Config.lean ====
section
/-! DEFINITION. What the platform fixes (the OPEN parameters of 00_scope.md R7, as plain data held in
State, so that every claim quantifies over them), the moves its agents can make, and the free values of the spec. -/

namespace Sys2Proof

/-- The addresses base, base+1, ..., base+size-1. -/
structure Region where
  base : Nat
  size : Nat
  deriving DecidableEq, Repr

/-- The OPEN parameters of R7 that are not a schedule: no step changes them (log 8, log 9). -/
structure Platform where
  /-- BASE_ADDR: the host-bus address of the register block (R102). -/
  baseAddr : Nat
  /-- Where the register block appears in the DMA space, if it does (R203). -/
  regsInDma : Option Nat
  /-- BUS_OK(a, read) is false exactly on these addresses (R207). -/
  noRead : List Region
  /-- BUS_OK(a, write) is false exactly on these addresses (R207). -/
  noWrite : List Region
  /-- DMA addresses whose reads have side effects (R208). -/
  devices : List Region
  /-- COHERENT (R227). -/
  coherent : Bool
  /-- RNG_RETRY_DELAY, a positive count of engine steps (R666). -/
  retryDelay : Nat
  deriving DecidableEq, Repr

namespace Machine

/-- A response on the entropy port (R661). -/
inductive Response where
  | present
  | absent
  | data (v : Byte)
  | transient
  deriving DecidableEq, Repr

/-- One step of one agent (R101; log 1). -/
inductive Move where
  /-- The host reads `size` bytes at a host-bus address (R103). -/
  | regRead (addr size : Nat)
  /-- The host writes `size` bytes at a host-bus address (R103). -/
  | regWrite (addr size : Nat) (v : Word)
  /-- The host reads a byte of system memory; `maintained`: it did its cache duty for it (R227). -/
  | memRead (a : Word) (maintained : Bool)
  /-- The host writes a byte of system memory; `maintained`: it did its cache duty for it (R227). -/
  | memWrite (a : Word) (b : Byte) (maintained : Bool)
  /-- The engine moves; while a command runs it performs `grain + 1` units of it (R140, U9). -/
  | engine (grain : Nat)
  /-- The entropy source gives a response (R660). -/
  | entropy (r : Response)
  /-- The entropy source answers a request that was abandoned (R710, R801, U25). -/
  | lateEntropy (r : Response)
  /-- The platform asserts reset (70_reset_and_hazards.md R800). -/
  | reset
  deriving DecidableEq, Repr, Inhabited

end Machine

/-- Move number k of a schedule of which nothing is known: the spec lets the agents move in any order, and the
entropy source give any response at any time or never (10_state.md R101; 47_rng.md R662, R670). No body (log 1). -/
opaque Config.freeMove : Nat → Machine.Move

/-- The free byte of draw number k: a value the spec leaves unspecified (R223(b), U11). No body: nothing
can be proved of its value (log 27). -/
opaque Config.freeByte : Nat → Byte

/-- The free choice of draw number k, between the old and the computed value of an output byte (R223(a),
R710, R801: U10, U12, U13). No body (log 27). -/
opaque Config.pick : Nat → Bool

end Sys2Proof
end

