-- ==== Sys2Proof/Machine/State.lean ====
section
/-! DEFINITION. The state of the machine as plain data (10_state.md R100, R102, R106, R130, R133, R150), the
schedule of its agents, and the ways a step can stop. -/

namespace Sys2Proof.Machine

/-- The DMA space (20_memory.md R200): (address, byte) pairs, addresses strictly rising, and no byte equal
to what an unlisted address reads as. -/
abbrev Memory := List Host.Cell

/-- The stored fields of STATUS (R106). EFATAL is read from rng.init (R133). -/
structure Status where
  busy : Bool
  done : Bool
  err : Bool
  ovr : Bool
  errcode : BitVec 8
  deriving DecidableEq, Repr

/-- The error codes of 60_exceptions.md R702, but for NONE. -/
inductive ErrCode where
  | illegalCmd
  | illegalVariant
  | keyLen
  | nonceLen
  | length
  | addrRange
  | overlap
  | entropyAbsent
  | bus
  deriving DecidableEq, Repr

/-- eng.phase (R130, R140). -/
inductive Phase where
  | idle
  | run
  | rngInit
  | rngWait
  | rngDelay
  deriving DecidableEq, Repr

/-- eng.rk: a list of u32 or of u64 (R130, R471). -/
inductive RoundKeys where
  | of32 (rk : List Word)
  | of64 (rk : List DWord)
  deriving DecidableEq, Repr

/-- A Rabbit instance (43_rabbit.md R530). -/
structure Rabbit where
  x : Vector Word 8
  c : Vector Word 8
  carry : Bool
  deriving DecidableEq, Repr

/-- The Trivium registers A, B and C (44_trivium.md R560): s1 is bit 0 of `a`, s94 bit 0 of `b`, s178 bit 0
of `c`. The packing is internal (R561; DESIGN CHOICE, log 19). -/
structure Triv where
  a : BitVec 93
  b : BitVec 84
  c : BitVec 111
  deriving DecidableEq, Repr

/-- The engine state (R130). The last five fields are the model's own: see INVENTORY.md. -/
structure Eng where
  phase : Phase
  op : BitVec 8
  var : BitVec 4
  off : Nat
  rk : RoundKeys
  C : List Byte
  rabbitMaster : Rabbit
  rabbitWork : Rabbit
  triv : Triv
  chacha : Vector Word 16
  H : Vector DWord 8
  buf : List Byte
  total : Word
  retry : Nat
  /-- The command's own initialisation is done (R705). -/
  ready : Bool
  /-- The loop index of the command's pseudocode: blocks, words or units done. -/
  blk : Nat
  /-- Output bytes computed whose DMA writes are not performed yet (log 4). -/
  out : List Byte
  /-- What the bytes a running rng command overwrote held before (log 11). -/
  under : List Byte
  /-- The host wrote a byte of the running command's ranges (20_memory.md R223(b), log 6). -/
  spoiled : Bool
  deriving DecidableEq, Repr

/-- rng.init (R133). -/
inductive RngInit where
  | uninit
  | ready
  | fatal
  deriving DecidableEq, Repr

/-- A request on the entropy port (47_rng.md R660). -/
inductive Request where
  | init
  | byte
  deriving DecidableEq, Repr

/-- The entropy-port state: rng.init (R133), the outstanding request (R660: at most one), and the response
given to it that no engine step has consumed yet (log 10). -/
structure Rng where
  init : RngInit
  req : Option Request
  resp : Option Response
  deriving DecidableEq, Repr

/-- The moves after those of the agenda (log 1): the same ones over and over, or any at all. -/
inductive Later where
  /-- These moves in their order, again and again without end; with none listed the engine alone moves. -/
  | cycle (moves : List Move)
  /-- Moves of which nothing is known: the next is Config.freeMove of `k`, the one after it of `k + 1`. -/
  | free (k : Nat)
  deriving DecidableEq, Repr

/-- The machine. -/
structure State where
  cmd : Word
  status : Status
  cfg : Word
  src : Word
  dst : Word
  len : Word
  ctr : Word
  irqEn : Word
  key : Vector Word 8
  nonce : Vector Word 4
  eng : Eng
  rng : Rng
  mem : Memory
  platform : Platform
  /-- The agents' next moves (log 1). -/
  agenda : List Move
  /-- The moves that come after the agenda, without end (log 1; 47_rng.md R670). -/
  later : Later
  /-- The granularity of the engine step being taken (log 3). -/
  grain : Nat
  /-- What the host's last register read returned (log 16). -/
  rdata : Word
  /-- What the host's last memory read returned (log 16). -/
  mdata : Byte
  /-- How many free values have been drawn (log 27). -/
  draws : Nat
  deriving DecidableEq, Repr

/-- Why a step stops with a fault. -/
inductive Fault where
  /-- Raised by a meaning or by the engine's move when the engine holds another command than the one asked
  for, or no legal command. No run reaches such a state. Safe: the machine stops (log 18). -/
  | engineMismatch
  deriving DecidableEq, Repr

/-- Why a step has no meaning. -/
inductive Refusal where
  /-- An instruction of the table that has no meaning yet: raised by exec's arms alone. Safe. -/
  | notModelled (mnemonic : String)
  /-- Raised by the host's register access that is not 32 bits wide or not aligned: 10_state.md R103 refuses
  it (U5). Safe. -/
  | registerAccess
  /-- Raised by the acceptance of a command whose ranges meet the register block in the DMA space:
  20_memory.md R203 refuses it (U6). Safe. -/
  | registerBlockInDma
  /-- Raised by the acceptance of a command whose ranges cover addresses with read side effects: 20_memory.md
  R208 refuses it (U7). Safe. -/
  | sideEffectMemory
  /-- Raised by a host memory access that omits the host's cache duty where COHERENT is false: 20_memory.md
  R227 (U19). Safe. -/
  | incoherentHost
  deriving DecidableEq, Repr

/-- A step's outcome. -/
abbrev Outcome := Host.Outcome State Fault Refusal

/-- STATUS with every stored field 0 (R150). -/
def Status.clear : Status :=
  { busy := false, done := false, err := false, ovr := false, errcode := 0 }

/-- A Rabbit instance of zeros. -/
def Rabbit.zero : Rabbit :=
  { x := Vector.replicate 8 0, c := Vector.replicate 8 0, carry := false }

/-- The engine with every field 0, lists empty and phase IDLE (R132, R150). -/
def Eng.zero : Eng :=
  { phase := .idle, op := 0, var := 0, off := 0, rk := .of32 [], C := [],
    rabbitMaster := Rabbit.zero, rabbitWork := Rabbit.zero,
    triv := { a := 0, b := 0, c := 0 }, chacha := Vector.replicate 16 0,
    H := Vector.replicate 8 0, buf := [], total := 0, retry := 0,
    ready := false, blk := 0, out := [], under := [], spoiled := false }

/-- KEY0..KEY7 at 0 (R102, R121). -/
def zeroKey : Vector Word 8 := Vector.replicate 8 0

/-- The entropy port after reset (R150). -/
def Rng.uninit : Rng := { init := .uninit, req := none, resp := none }

/-- The platform of State.reset (every field DESIGN CHOICE, log 8). -/
def Platform.plain : Platform :=
  { baseAddr := 0, regsInDma := none, noRead := [], noWrite := [], devices := [],
    coherent := true, retryDelay := 1 }

/-- The machine right after reset (R150, R800): every register at the value of R102's table. -/
def State.reset : State :=
  { cmd := 0, status := Status.clear, cfg := 0, src := 0, dst := 0, len := 0, ctr := 0, irqEn := 0,
    key := zeroKey, nonce := Vector.replicate 4 0, eng := Eng.zero, rng := Rng.uninit,
    mem := [], platform := Platform.plain, agenda := [], later := .free 0,
    grain := 0, rdata := 0, mdata := 0, draws := 0 }

end Sys2Proof.Machine
end

