-- ==== Sys2Proof/Machine/Flags.lean ====
section
/-! DEFINITION. The flags of the CORE: the STATUS word, its W1C write, the error codes and the interrupt
(10_state.md R106, R107, R133; 60_exceptions.md R702, R720). -/

namespace Sys2Proof.Machine

/-- ERRCODE of each error (R702). -/
def errorByte : ErrCode → BitVec 8
  | .illegalCmd => 0x01
  | .illegalVariant => 0x02
  | .keyLen => 0x03
  | .nonceLen => 0x04
  | .length => 0x05
  | .addrRange => 0x06
  | .overlap => 0x07
  | .entropyAbsent => 0x08
  | .bus => 0x09

/-- EFATAL reads 1 exactly when rng.init = FATAL (R133). -/
def efatal (s : State) : Bool := s.rng.init == .fatal

/-- The STATUS word (R106). -/
def statusWord (s : State) : Word :=
  (0#16 ++ s.status.errcode) ++ (0#3 ++ BitVec.ofBool (efatal s) ++ BitVec.ofBool s.status.ovr
    ++ BitVec.ofBool s.status.err ++ BitVec.ofBool s.status.done ++ BitVec.ofBool s.status.busy)

/-- The W1C write of STATUS (R107): the return from an error (60_exceptions.md R712). -/
def writeOneToClear (v : Word) (f : Status) : Status :=
  { f with
    done := f.done && !v.getLsbD 1
    err := f.err && !v.getLsbD 2
    errcode := if v.getLsbD 2 then 0 else f.errcode
    ovr := f.ovr && !v.getLsbD 3 }

/-- What acceptance does to the flags before its checks (60_exceptions.md R705 (2)). -/
def openFlags (f : Status) : Status := { f with done := false, err := false, errcode := 0 }

/-- The flags of an error completion (60_exceptions.md R710). -/
def errorFlags (c : ErrCode) (f : Status) : Status :=
  { f with busy := false, done := true, err := true, errcode := errorByte c }

/-- The flags of a successful completion (60_exceptions.md R711): ERR and ERRCODE stay. -/
def doneFlags (f : Status) : Status := { f with busy := false, done := true }

/-- The interrupt output (60_exceptions.md R720). -/
def irq (s : State) : Bool :=
  (s.status.done && s.irqEn.getLsbD 0) || (s.status.err && s.irqEn.getLsbD 1)
    || (s.status.ovr && s.irqEn.getLsbD 2)

end Sys2Proof.Machine
end

