-- ==== Sys2Proof/Machine/Operands.lean ====
section
/-! DEFINITION. The operand forms of the commands: the codec functions that read bytes as words
(40_codec.md R400 to R405), the key and nonce bytes of the registers (10_state.md R115), the parameters of
the variants and modes (30_encoding.md R306, R308), and the recipe of a command. -/

namespace Sys2Proof.Machine

/-- le_w (R400): the value of a byte sequence, its first byte least significant. -/
def leNat : List Byte → Nat
  | [] => 0
  | b :: bs => b.toNat + 256 * leNat bs

/-- be_w (R400): the value of a byte sequence, its first byte most significant. -/
def beNat (bs : List Byte) : Nat := leNat bs.reverse

/-- LE_w (R401): a value as `w` bytes, the least significant first. -/
def leBytes : Nat → Nat → List Byte
  | 0, _ => []
  | w + 1, v => BitVec.ofNat 8 v :: leBytes w (v / 256)

/-- BE_w (R401): a value as `w` bytes, the most significant first. -/
def beBytes (w v : Nat) : List Byte := (leBytes w v).reverse

/-- The first `count` groups of `w` bytes. -/
def groups (w : Nat) : Nat → List Byte → List (List Byte)
  | 0, _ => []
  | count + 1, bs => bs.take w :: groups w count (bs.drop w)

/-- bytesToWordsLE (R402), words of `n` bits. -/
def wordsLE (n count : Nat) (bs : List Byte) : List (BitVec n) :=
  (groups (n / 8) count bs).map fun g => BitVec.ofNat n (leNat g)

/-- bytesToWordsBE (R402), words of `n` bits. -/
def wordsBE (n count : Nat) (bs : List Byte) : List (BitVec n) :=
  (groups (n / 8) count bs).map fun g => BitVec.ofNat n (beNat g)

/-- wordsToBytesLE (R403), words of `n` bits. -/
def bytesLE {n : Nat} (ws : List (BitVec n)) : List Byte :=
  ws.flatMap fun v => leBytes (n / 8) v.toNat

/-- wordsToBytesBE (R403), words of `n` bits. -/
def bytesBE {n : Nat} (ws : List (BitVec n)) : List Byte :=
  ws.flatMap fun v => beBytes (n / 8) v.toNat

/-- xorBytes (00_scope.md R11). -/
def xorBytes (a b : List Byte) : List Byte := List.zipWith (· ^^^ ·) a b

/-- What a command reads of the registers (R120): the key and nonce bytes, CTR and LEN. Memory is not
among them. -/
structure Operands where
  key : List Byte
  nonce : List Byte
  ctr : Word
  len : Nat
  deriving DecidableEq, Repr

/-- KEYBYTES (R115). -/
def keyBytes (s : State) : List Byte := bytesLE s.key.toList

/-- NONCEBYTES (R115). -/
def nonceBytes (s : State) : List Byte := bytesLE s.nonce.toList

/-- The register operands of the running command (R310). -/
def operandsOf (s : State) : Operands :=
  { key := keyBytes s, nonce := nonceBytes s, ctr := s.ctr, len := s.len.toNat }

/-- CFG.KLEN (R108). -/
def klen (s : State) : Nat := (s.cfg.extractLsb' 0 6).toNat

/-- CFG.NLEN (R108). -/
def nlen (s : State) : Nat := (s.cfg.extractLsb' 8 5).toNat

/-- Whether a variant is of family B, Speck (R306). -/
def isSpeck : Variant → Bool
  | .speck64_96 | .speck64_128 | .speck128_128 | .speck128_192 | .speck128_256 => true
  | .simon64_96 | .simon64_128 | .simon128_128 | .simon128_192 | .simon128_256 => false

/-- B, the block bytes (R306). -/
def blockBytes : Variant → Nat
  | .speck64_96 | .speck64_128 | .simon64_96 | .simon64_128 => 8
  | .speck128_128 | .speck128_192 | .speck128_256 => 16
  | .simon128_128 | .simon128_192 | .simon128_256 => 16

/-- m, the number of key words (R306). -/
def keyWords : Variant → Nat
  | .speck64_96 | .simon64_96 => 3
  | .speck64_128 | .simon64_128 => 4
  | .speck128_128 | .simon128_128 => 2
  | .speck128_192 | .simon128_192 => 3
  | .speck128_256 | .simon128_256 => 4

/-- T, the round count (R306, 42_block_cipher.md R489). -/
def roundCount : Variant → Nat
  | .speck64_96 => 26
  | .speck64_128 => 27
  | .speck128_128 => 32
  | .speck128_192 => 33
  | .speck128_256 => 34
  | .simon64_96 => 42
  | .simon64_128 => 44
  | .simon128_128 => 68
  | .simon128_192 => 69
  | .simon128_256 => 72

/-- The key bytes (00_scope.md R8, R306). -/
def variantKeyBytes : Variant → Nat
  | .speck64_96 | .simon64_96 => 12
  | .speck64_128 | .simon64_128 => 16
  | .speck128_128 | .simon128_128 => 16
  | .speck128_192 | .simon128_192 => 24
  | .speck128_256 | .simon128_256 => 32

/-- w, the word size of a codec mode in bytes (R308). -/
def modeBytes : Mode → Nat
  | .le32 => 4
  | .le64 | .be64 => 8

/-- ceil(n / d). -/
def ceilDiv (n d : Nat) : Nat := (n + d - 1) / d

/-- What one command is: what its acceptance checks (R310, R706), its ranges (R201), the dependencies of its
output bytes (R209), and its work, cut into units: unit k reads the input bytes of `chunk n k` and computes
the next output bytes. `n` is LEN throughout. -/
structure Recipe where
  /-- The key bytes CFG.KLEN must declare, if the command has a key. -/
  keyLen : Option Nat
  /-- The nonce bytes CFG.NLEN must declare, if the command has a nonce. -/
  nonceLen : Option Nat
  /-- The LEN constraint. -/
  lenOk : Nat → Bool
  /-- The length of the input range. -/
  inLen : Nat → Nat
  /-- The length of the output range. -/
  outLen : Nat → Nat
  /-- Whether SRC = DST is allowed. -/
  inPlace : Bool
  /-- Whether rng.init = FATAL fails it. -/
  needsEntropy : Bool
  /-- How many units the command takes. -/
  units : Nat → Nat
  /-- The input bytes [lo, hi) unit k reads. -/
  chunk : Nat → Nat → Nat × Nat
  /-- The input bytes [lo, hi) output byte j depends on. -/
  deps : Nat → Nat → Nat × Nat
  /-- The command's own initialisation of the engine. -/
  setup : Operands → Eng → Eng
  /-- One unit, given the bytes it reads. -/
  unit : Operands → Eng → List Byte → Eng

/-- The engine after a unit that computed the output bytes `bs`: they are appended, eng.off counts them
(R140), and the loop index moves on. -/
def emit (e : Eng) (bs : List Byte) : Eng :=
  { e with out := e.out ++ bs, off := e.off + bs.length, blk := e.blk + 1 }

end Sys2Proof.Machine
end

