-- ==== Sys2Proof/Machine/Ops.lean ====
section
/-! DEFINITION. The named operations over memory and registers, the completions of a command (an error
completion is this machine's exception entry: 60_exceptions.md R710), the acceptance of a command (R705,
R706) and the engine's step through a recipe (10_state.md R140). -/

namespace Sys2Proof.Machine

/-! ### Memory (20_memory.md R200 to R208) -/

/-- What a byte that nothing has written reads as: the spec gives no contents (DESIGN CHOICE, log 7). -/
def unlistedByte : Byte := 0

/-- The byte at an address. -/
def readMem : Memory → Nat → Byte
  | [], _ => unlistedByte
  | (k, v) :: rest, a => if k = a then v else readMem rest a

/-- Write a byte; the list keeps its canonical form. -/
def writeMem : Memory → Nat → Byte → Memory
  | [], a, v => if v = unlistedByte then [] else [(a, v)]
  | (k, w) :: rest, a, v =>
    if a < k then
      if v = unlistedByte then (k, w) :: rest else (a, v) :: (k, w) :: rest
    else if a = k then
      if v = unlistedByte then rest else (k, v) :: rest
    else (k, w) :: writeMem rest a v

/-- The canonical form from an address on: addresses strictly rising and below 2^32, no unlisted byte. -/
def canonicalFrom : Nat → Memory → Bool
  | _, [] => true
  | lo, (k, v) :: rest =>
    decide (lo ≤ k) && decide (k < 2 ^ 32) && decide (v ≠ unlistedByte) && canonicalFrom (k + 1) rest

/-- The canonical form of a memory. -/
def Memory.wf (m : Memory) : Bool := canonicalFrom 0 m

/-- The DMA address `j` bytes after a base. A range that acceptance lets through never wraps (R202); in
a state no run reaches it would wrap mod 2^32 (log 24). -/
def addrAt (base : Word) (j : Nat) : Nat := (base + BitVec.ofNat 32 j).toNat

/-- MemRead(base + lo, count) (00_scope.md R14). -/
def readBytes (m : Memory) (base : Word) (lo count : Nat) : List Byte :=
  (List.range count).map fun j => readMem m (addrAt base (lo + j))

/-- MemWrite(base, |bs|, bs) (00_scope.md R14). -/
def writeBytes : Memory → Word → List Byte → Memory
  | m, _, [] => m
  | m, base, b :: bs => writeBytes (writeMem m base.toNat b) (base + 1) bs

/-- Whether a region holds an address. -/
def regionHas (a : Nat) (r : Region) : Bool := decide (r.base ≤ a ∧ a < r.base + r.size)

/-- Whether two ranges [a, a+k) and [b, b+l) intersect; an empty range intersects nothing (R706 step 6). -/
def rangesMeet (a k b l : Nat) : Bool :=
  decide (0 < k) && decide (0 < l) && decide (a < b + l) && decide (b < a + k)

/-- BUS_OK(a, read) (R207). -/
def canRead (s : State) (a : Nat) : Bool := !s.platform.noRead.any (regionHas a)

/-- BUS_OK(a, write) (R207). -/
def canWrite (s : State) (a : Nat) : Bool := !s.platform.noWrite.any (regionHas a)

/-- Every input byte in [lo, hi) can be read. -/
def inputAnswers (s : State) (lo hi : Nat) : Bool :=
  (List.range (hi - lo)).all fun j => canRead s (addrAt s.src (lo + j))

/-- Every output byte below `n` can be written. -/
def outputAnswers (s : State) (n : Nat) : Bool :=
  (List.range n).all fun j => canWrite s (addrAt s.dst j)

/-- R202: an empty range, or one that ends at or below 2^32. -/
def rangeLegal (base : Word) (k : Nat) : Bool := k == 0 || decide (base.toNat + k ≤ 2 ^ 32)

/-- The command's input range (R201). -/
def inInput (c : Recipe) (s : State) (a : Nat) : Bool :=
  decide (s.src.toNat ≤ a ∧ a < s.src.toNat + c.inLen s.len.toNat)

/-- The command's output range (R201). -/
def inOutput (c : Recipe) (s : State) (a : Nat) : Bool :=
  decide (s.dst.toNat ≤ a ∧ a < s.dst.toNat + c.outLen s.len.toNat)

/-- The free bytes of the draws from `k` on (log 27). -/
def freeBytes (k : Nat) : Nat → List Byte
  | 0 => []
  | n + 1 => Config.freeByte k :: freeBytes (k + 1) n

/-! ### The register block (10_state.md R102 to R119) -/

/-- The registers of R102. -/
inductive Reg where
  | id
  | cmd
  | status
  | cfg
  | src
  | dst
  | len
  | ctr
  | irqEn
  | key (k : Fin 8)
  | nonce (k : Fin 4)
  deriving DecidableEq, Repr

/-- The register at an offset of the block; none at a reserved offset (R102, R104). -/
def regAt (off : Nat) : Option Reg :=
  if off = 0x00 then some .id
  else if off = 0x04 then some .cmd
  else if off = 0x08 then some .status
  else if off = 0x0C then some .cfg
  else if off = 0x10 then some .src
  else if off = 0x14 then some .dst
  else if off = 0x18 then some .len
  else if off = 0x1C then some .ctr
  else if off = 0x20 then some .irqEn
  else if 0x40 ≤ off ∧ off < 0x60 ∧ off % 4 = 0 then some (.key (Fin.ofNat 8 ((off - 0x40) / 4)))
  else if 0x60 ≤ off ∧ off < 0x70 ∧ off % 4 = 0 then some (.nonce (Fin.ofNat 4 ((off - 0x60) / 4)))
  else none

/-- The identity word (R110). -/
def idWord : Word := 0x43430007

/-- The writable bits of CFG (R108). -/
def cfgMask : Word := 0x00001F3F

/-- The writable bits of IRQ_EN (R109). -/
def irqMask : Word := 0x00000007

/-- A read of a register: KEY reads 0 (R116), no side effect (R119). -/
def readReg (r : Reg) (s : State) : Word :=
  match r with
  | .id => idWord
  | .cmd => s.cmd
  | .status => statusWord s
  | .cfg => s.cfg
  | .src => s.src
  | .dst => s.dst
  | .len => s.len
  | .ctr => s.ctr
  | .irqEn => s.irqEn
  | .key _ => 0
  | .nonce k => s.nonce[k]

/-- A write lost because a command runs: OVR (R118). -/
def setOvr (s : State) : State := { s with status := { s.status with ovr := true } }

/-- A write of a parameter register with BUSY = 0 (R108, R111 to R117). -/
def storeParameter (r : Reg) (v : Word) (s : State) : State :=
  match r with
  | .cfg => { s with cfg := v &&& cfgMask }
  | .src => { s with src := v }
  | .dst => { s with dst := v }
  | .len => { s with len := v }
  | .ctr => { s with ctr := v }
  | .key k => { s with key := s.key.set k v }
  | .nonce k => { s with nonce := s.nonce.set k v }
  | .id | .cmd | .status | .irqEn => s

/-- A write of a register other than CMD (R104, R107, R109, R110, R118). -/
def writeReg (r : Reg) (v : Word) (s : State) : State :=
  match r with
  | .id | .cmd => s
  | .status => { s with status := writeOneToClear v s.status }
  | .irqEn => { s with irqEn := v &&& irqMask }
  | .cfg | .src | .dst | .len | .ctr | .key _ | .nonce _ =>
    if s.status.busy then setOvr s else storeParameter r v s

/-! ### Completion (60_exceptions.md R710, R711, R712) -/

/-- What every completion clears: KEY (R121), eng (R132), and the entropy request in flight (R710). -/
def wipe (s : State) : State :=
  { s with key := zeroKey, eng := Eng.zero, rng := { s.rng with req := none, resp := none } }

/-- Taking an exception: the error completion with code `c` (R710). What it leaves in memory is `settle`'s
part. -/
def raiseError (c : ErrCode) (s : State) : State :=
  { wipe s with status := errorFlags c s.status }

/-- The successful completion (R711). -/
def complete (s : State) : State :=
  { wipe s with status := doneFlags s.status }

/-- The return (R712): the host acknowledges by a W1C write of STATUS; nothing resumes. -/
def acknowledge (v : Word) (s : State) : State :=
  { s with status := writeOneToClear v s.status }

/-! ### The work of a command -/

/-- The bytes unit `k` reads. -/
def chunkBytes (c : Recipe) (s : State) (k : Nat) : List Byte :=
  let r := c.chunk s.len.toNat k
  readBytes s.mem s.src r.1 (r.2 - r.1)

/-- The engine after `k` more units, memory and registers standing still. -/
def unitsFrom (c : Recipe) (s : State) : Nat → Eng → Eng
  | 0, e => e
  | k + 1, e => unitsFrom c s k (c.unit (operandsOf s) e (chunkBytes c s e.blk))

/-- The output the command computes (R710): a function of the registers and of memory. -/
def computedOutput (c : Recipe) (s : State) : List Byte :=
  (unitsFrom c s (c.units s.len.toNat) (c.setup (operandsOf s) Eng.zero)).out

/-- Whether output byte `j` can have been written: every input byte it depends on (20_memory.md R209) and
the byte itself answer. -/
def canLand (c : Recipe) (s : State) (j : Nat) : Bool :=
  let d := c.deps s.len.toNat j
  inputAnswers s d.1 d.2 && canWrite s (addrAt s.dst j)

/-- Output byte `j` of a command that has not completed: the old value or the computed one, by the free
choice of draw number `k` (20_memory.md R223(a), R710, R801). -/
def oldOrComputed (c : Recipe) (s : State) (j k : Nat) : Byte :=
  if canLand c s j && Config.pick k then (computedOutput c s).getD j 0
  else readMem s.mem (addrAt s.dst j)

/-- Memory when a running command ends without completing (R710, R801): each output byte old or computed, or
free if the host wrote to the command's ranges (20_memory.md R223(b)). The rng command has written its
bytes in order already (47_rng.md R665, R668). -/
def settledMem (c : Recipe) (s : State) : Memory :=
  let n := c.outLen s.len.toNat
  if s.eng.spoiled then writeBytes s.mem s.dst (freeBytes s.draws n)
  else
    match s.eng.phase with
    | .run => writeBytes s.mem s.dst ((List.range n).map fun j => oldOrComputed c s j (s.draws + j))
    | .idle | .rngInit | .rngWait | .rngDelay => s.mem

/-- A running command ends without completing: its memory, and the draws it took. -/
def settle (c : Recipe) (s : State) : State :=
  { s with mem := settledMem c s, draws := s.draws + c.outLen s.len.toNat }

/-- An execution error of a running command (R707, R710). -/
def failRunning (c : Recipe) (e : ErrCode) (s : State) : State := raiseError e (settle c s)

/-- The output range all free: the host wrote to the command's ranges meanwhile (20_memory.md R223(b)). -/
def freeOutput (c : Recipe) (s : State) : State :=
  let n := c.outLen s.len.toNat
  { s with mem := writeBytes s.mem s.dst (freeBytes s.draws n), draws := s.draws + n }

/-- The DMA writes of a command that completes, and its completion (R711): the bytes it computed, or free
bytes if the host wrote to its ranges meanwhile. -/
def finish (c : Recipe) (bs : List Byte) (s : State) : State :=
  if s.eng.spoiled then complete (freeOutput c s)
  else complete { s with mem := writeBytes s.mem s.dst bs }

/-- One unit of a command in phase RUN (R140, R207, R711): its initialisation, or one unit of its work, or
its DMA writes and completion. It writes its output range and nothing beyond it (20_memory.md R201). -/
def runStep (c : Recipe) (s : State) : State :=
  let e := s.eng
  let n := s.len.toNat
  if e.ready = false then
    { s with eng := { c.setup (operandsOf s) e with ready := true } }
  else if e.off < c.outLen n then
    if inputAnswers s (c.chunk n e.blk).1 (c.chunk n e.blk).2 then
      { s with eng := c.unit (operandsOf s) e (chunkBytes c s e.blk) }
    else failRunning c .bus s
  else if outputAnswers s (c.outLen n) then finish c (e.out.take (c.outLen n)) s
  else failRunning c .bus s

/-- Up to `k` units in one engine step, stopping when the command ends (R140, U9). -/
def runSteps (c : Recipe) : Nat → State → State
  | 0, s => s
  | k + 1, s =>
    match s.eng.phase with
    | .run => runSteps c k (runStep c s)
    | .idle | .rngInit | .rngWait | .rngDelay => s

/-! ### Acceptance (60_exceptions.md R705, R706) -/

/-- Whether a required length differs from the declared one. -/
def lengthDiffers (required : Option Nat) (declared : Nat) : Bool :=
  match required with
  | some k => declared != k
  | none => false

/-- The checks 2 to 7 of R706, in order; check 1 is the decoder's. -/
def checkCommand (c : Recipe) (s : State) : Option ErrCode :=
  let n := s.len.toNat
  if lengthDiffers c.keyLen (klen s) then some .keyLen
  else if lengthDiffers c.nonceLen (nlen s) then some .nonceLen
  else if c.lenOk n = false then some .length
  else if rangeLegal s.src (c.inLen n) = false || rangeLegal s.dst (c.outLen n) = false then some .addrRange
  else if rangesMeet s.src.toNat (c.inLen n) s.dst.toNat (c.outLen n) && !(c.inPlace && s.src == s.dst) then
    some .overlap
  else if c.needsEntropy && s.rng.init == .fatal then some .entropyAbsent
  else none

/-- Whether one of the command's ranges meets a region. -/
def rangesTouch (c : Recipe) (s : State) (r : Region) : Bool :=
  rangesMeet s.src.toNat (c.inLen s.len.toNat) r.base r.size
    || rangesMeet s.dst.toNat (c.outLen s.len.toNat) r.base r.size

/-- 20_memory.md R203: the ranges meet the register block in the DMA space. -/
def meetsRegisterBlock (c : Recipe) (s : State) : Bool :=
  match s.platform.regsInDma with
  | some base => rangesTouch c s { base := base, size := 256 }
  | none => false

/-- 20_memory.md R208: the ranges cover addresses with read side effects. -/
def meetsDevice (c : Recipe) (s : State) : Bool := s.platform.devices.any (rangesTouch c s)

/-- Acceptance, steps (1) and (2) of R705: CMD takes the word, DONE, ERR and ERRCODE clear. -/
def openCommand (w : Word) (s : State) : State := { s with cmd := w, status := openFlags s.status }

/-- Acceptance of a word that is no command: check 1 of R706 fails. -/
def rejectWord (w : Word) (r : Reject) (s : State) : State :=
  match r with
  | .illegalVariant => raiseError .illegalVariant (openCommand w s)
  | .illegalCmd | .truncated => raiseError .illegalCmd (openCommand w s)

/-- A command that passed its checks starts: BUSY, eng.op, eng.var, eng.off (R705). The fields of `eng` it
does not latch stay 0 as the last completion left them (R132). -/
def latch (i : Instr) (s : State) : State :=
  { s with
    status := { s.status with busy := true }
    eng := { Eng.zero with op := i.opcode, var := i.varField } }

/-- A command other than rng enters phase RUN (R705). -/
def enterRun (s : State) : State := { s with eng := { s.eng with phase := .run } }

/-- Acceptance of a command (R705): the checks, then an error completion, a refusal the spec asks for
(20_memory.md R203, R208), or the start, all in this step. DESIGN CHOICE, logs 13 and 14: the checks come before
the refusal, so a command that fails one ends in its error wherever its ranges lie. -/
def accept (i : Instr) (c : Recipe) (enter : State → State) (s : State) : Outcome :=
  let s1 := openCommand (encode i) s
  match checkCommand c s1 with
  | some e => .next (raiseError e s1)
  | none =>
    if meetsRegisterBlock c s1 then .refused .registerBlockInDma
    else if meetsDevice c s1 then .refused .sideEffectMemory
    else .next (enter (latch i s1))

/-- Whether the engine runs this command. -/
def runs (i : Instr) (s : State) : Bool := s.eng.op == i.opcode && s.eng.var == i.varField

/-- The meaning of a command other than rng: with the engine idle its acceptance, and while it runs the
engine step that carries it on by `grain + 1` units. -/
def perform (i : Instr) (c : Recipe) (s : State) : Outcome :=
  match s.eng.phase with
  | .idle => accept i c enterRun s
  | .run => if runs i s then .next (runSteps c (s.grain + 1) s) else .fault .engineMismatch
  | .rngInit | .rngWait | .rngDelay => .fault .engineMismatch

/-! ### Reset (70_reset_and_hazards.md R800 to R803) -/

/-- The reset input: every register, STATUS, eng and rng.init take their reset values; memory, the platform
and the schedule stay. -/
def resetCore (s : State) : State :=
  { s with
    cmd := 0, status := Status.clear, cfg := 0, src := 0, dst := 0, len := 0, ctr := 0, irqEn := 0
    key := zeroKey, nonce := Vector.replicate 4 0, eng := Eng.zero, rng := Rng.uninit }

end Sys2Proof.Machine
end

