-- ==== Sys2Proof/Machine/BlockCipher.lean ====
section
/-! DEFINITION. The block cipher family (42_block_cipher.md R470 to R490) and the ten bc.enc commands (R491 to
R501). -/

namespace Sys2Proof.Machine

/-! ### Speck (family B) -/

/-- One Speck round with round key `k` on (x, y) (R480, R482). -/
def speckRound {n : Nat} (p : BitVec n × BitVec n) (k : BitVec n) : BitVec n × BitVec n :=
  let x := (p.1.rotateRight 8 + p.2) ^^^ k
  (x, p.2.rotateLeft 3 ^^^ x)

/-- The Speck key schedule's loop (R481): `count` more steps from index `i`, with the current rk[i] and the
queue l[i], l[i+1], ...; it answers rk[i], rk[i+1], ... -/
def speckExpand {n : Nat} : Nat → Nat → BitVec n → List (BitVec n) → List (BitVec n)
  | 0, _, rk, _ => [rk]
  | count + 1, i, rk, l =>
    let next := (rk + (l.headD 0).rotateRight 8) ^^^ BitVec.ofNat n i
    rk :: speckExpand count (i + 1) (rk.rotateLeft 3 ^^^ next) (l.tail ++ [next])

/-- The Speck key schedule (R481): rk[0..T-1] from the key words. -/
def speckKeySchedule {n : Nat} (k : List (BitVec n)) (T : Nat) : List (BitVec n) :=
  speckExpand (T - 1) 0 (k.headD 0) k.tail

/-! ### Simon (family A) -/

/-- The round nonlinearity f (R484). -/
def simonF {n : Nat} (x : BitVec n) : BitVec n :=
  (x.rotateLeft 1 &&& x.rotateLeft 8) ^^^ x.rotateLeft 2

/-- The constant sequences z_0 to z_4 (R485), bit z_j[0] leftmost. -/
def simonZ : Nat → BitVec 62
  | 0 => 0b11111010001001010110000111001101111101000100101011000011100110
  | 1 => 0b10001110111110010011000010110101000111011111001001100001011010
  | 2 => 0b10101111011100000011010010011000101000010001111110010110110011
  | 3 => 0b11011011101011000110010111100000010010001010011100110100001111
  | _ => 0b11010001111001101011011000100000010111000011001010010011101111

/-- z_j[k] (R485). -/
def simonZBit (j k : Nat) : Bool := (simonZ j).getMsbD (k % 62)

/-- The index of the sequence a Simon variant uses (30_encoding.md R306). -/
def simonSequence : Variant → Nat
  | .simon64_96 | .simon128_128 => 2
  | .simon64_128 | .simon128_192 => 3
  | .simon128_256 => 4
  | .speck64_96 | .speck64_128 | .speck128_128 | .speck128_192 | .speck128_256 => 0

/-- The next Simon round key, rk[i] with i = |rk|, from those before it (R486). -/
def simonNextKey {n : Nat} (m z : Nat) (rk : List (BitVec n)) : BitVec n :=
  let i := rk.length
  let rotated := (rk.getD (i - 1) 0).rotateRight 3
  let fed := if m = 4 then rotated ^^^ rk.getD (i - 3) 0 else rotated
  let tmp := fed ^^^ fed.rotateRight 1
  BitVec.ofNat n (2 ^ n - 4) ^^^ BitVec.ofNat n (simonZBit z (i - m)).toNat ^^^ rk.getD (i - m) 0 ^^^ tmp

/-- The Simon key schedule's loop (R486): `count` more round keys. -/
def simonExpand {n : Nat} (m z : Nat) : Nat → List (BitVec n) → List (BitVec n)
  | 0, rk => rk
  | count + 1, rk => simonExpand m z count (rk ++ [simonNextKey m z rk])

/-- The Simon key schedule (R486): rk[0..T-1] from the m key words. -/
def simonKeySchedule {n : Nat} (k : List (BitVec n)) (m T z : Nat) : List (BitVec n) :=
  simonExpand m z (T - m) k

/-- One Simon round with round key `k` on (x, y) (R487). -/
def simonRound {n : Nat} (p : BitVec n × BitVec n) (k : BitVec n) : BitVec n × BitVec n :=
  (p.2 ^^^ simonF p.1 ^^^ k, p.1)

/-! ### The block function (R470, R483, R488, R490) -/

/-- The round keys of a variant from its key words (R481, R486). -/
def keySchedule {n : Nat} (v : Variant) (k : List (BitVec n)) : List (BitVec n) :=
  if isSpeck v then speckKeySchedule k (roundCount v)
  else simonKeySchedule k (keyWords v) (roundCount v) (simonSequence v)

/-- The rounds of a variant, in the order of the round keys (R483, R488). -/
def rounds {n : Nat} (v : Variant) (rk : List (BitVec n)) (p : BitVec n × BitVec n) : BitVec n × BitVec n :=
  rk.foldl (if isSpeck v then speckRound else simonRound) p

/-- A block read as (x, y): y from its first bytes, x from its last (R470). -/
def readPair (n : Nat) (block : List Byte) : BitVec n × BitVec n :=
  (BitVec.ofNat n (leNat (block.drop (n / 8))), BitVec.ofNat n (leNat (block.take (n / 8))))

/-- A pair written back as a block (R470). -/
def writePair {n : Nat} (p : BitVec n × BitVec n) : List Byte := bytesLE [p.2, p.1]

/-- eng.rk of a variant, from the key bytes (R470, R471). -/
def roundKeys (v : Variant) (key : List Byte) : RoundKeys :=
  if blockBytes v = 8 then .of32 (keySchedule v (wordsLE 32 (keyWords v) key))
  else .of64 (keySchedule v (wordsLE 64 (keyWords v) key))

/-- One block through the rounds under given round keys (R483, R488, R490). -/
def encryptWith (v : Variant) (rk : RoundKeys) (block : List Byte) : List Byte :=
  match rk with
  | .of32 ks => writePair (rounds v ks (readPair 32 block))
  | .of64 ks => writePair (rounds v ks (readPair 64 block))

/-- The block function E_v (R490). -/
def encryptBlock (v : Variant) (key block : List Byte) : List Byte :=
  encryptWith v (roundKeys v key) block

/-- The key bytes of a variant's command, KEYBYTES[0..k) (10_state.md R115). -/
def variantKey (v : Variant) (o : Operands) : List Byte := o.key.take (variantKeyBytes v)

/-! ### bc.enc (R491) -/

/-- The initialisation of bc.enc: eng.rk (R471). -/
def encSetup (v : Variant) (o : Operands) (e : Eng) : Eng :=
  { e with rk := roundKeys v (variantKey v o) }

/-- The one unit of bc.enc: the whole block (R491). -/
def encUnit (v : Variant) (_ : Operands) (e : Eng) (block : List Byte) : Eng :=
  emit e (encryptWith v e.rk block)

/-- bc.enc of a variant (30_encoding.md R310, 20_memory.md R201, R209; R491). -/
def encRecipe (v : Variant) : Recipe :=
  { keyLen := some (variantKeyBytes v)
    nonceLen := none
    lenOk := fun n => n == blockBytes v
    inLen := fun _ => blockBytes v
    outLen := fun _ => blockBytes v
    inPlace := true
    needsEntropy := false
    units := fun _ => 1
    chunk := fun _ _ => (0, blockBytes v)
    deps := fun _ _ => (0, blockBytes v)
    setup := encSetup v
    unit := encUnit v }

/-- `bc.enc.speck64_96` (R492). -/
def execBcEncSpeck64_96 (s : State) : Outcome := perform .bcEncSpeck64_96 (encRecipe .speck64_96) s

/-- `bc.enc.speck64_128` (R493). -/
def execBcEncSpeck64_128 (s : State) : Outcome := perform .bcEncSpeck64_128 (encRecipe .speck64_128) s

/-- `bc.enc.speck128_128` (R494). -/
def execBcEncSpeck128_128 (s : State) : Outcome := perform .bcEncSpeck128_128 (encRecipe .speck128_128) s

/-- `bc.enc.speck128_192` (R495). -/
def execBcEncSpeck128_192 (s : State) : Outcome := perform .bcEncSpeck128_192 (encRecipe .speck128_192) s

/-- `bc.enc.speck128_256` (R496). -/
def execBcEncSpeck128_256 (s : State) : Outcome := perform .bcEncSpeck128_256 (encRecipe .speck128_256) s

/-- `bc.enc.simon64_96` (R497). -/
def execBcEncSimon64_96 (s : State) : Outcome := perform .bcEncSimon64_96 (encRecipe .simon64_96) s

/-- `bc.enc.simon64_128` (R498). -/
def execBcEncSimon64_128 (s : State) : Outcome := perform .bcEncSimon64_128 (encRecipe .simon64_128) s

/-- `bc.enc.simon128_128` (R499). -/
def execBcEncSimon128_128 (s : State) : Outcome := perform .bcEncSimon128_128 (encRecipe .simon128_128) s

/-- `bc.enc.simon128_192` (R500). -/
def execBcEncSimon128_192 (s : State) : Outcome := perform .bcEncSimon128_192 (encRecipe .simon128_192) s

/-- `bc.enc.simon128_256` (R501). -/
def execBcEncSimon128_256 (s : State) : Outcome := perform .bcEncSimon128_256 (encRecipe .simon128_256) s

end Sys2Proof.Machine
end

