-- ==== Sys2Proof/Machine/CtrDriver.lean ====
section
/-! DEFINITION. The counter-mode driver (41_ctr_driver.md R430 to R441) and the ten bc.ctr commands (R442 to
R451). -/

namespace Sys2Proof.Machine

/-- The counter after one block: plus 1 as a big-endian integer, wrapping (R432). -/
def nextCounter (c : List Byte) : List Byte :=
  beBytes c.length ((beNat c + 1) % 2 ^ (8 * c.length))

/-- The nonce bytes of a variant's command, NONCEBYTES[0..B) (R430). -/
def variantNonce (v : Variant) (o : Operands) : List Byte := o.nonce.take (blockBytes v)

/-- The initialisation of bc.ctr: eng.rk once (R431) and eng.C at zero (R432). -/
def ctrSetup (v : Variant) (o : Operands) (e : Eng) : Eng :=
  { e with rk := roundKeys v (variantKey v o), C := List.replicate (blockBytes v) 0 }

/-- One block of bc.ctr (R433 to R436): the keystream block of the working nonce, applied to the bytes of
the block there are; then the counter moves on. -/
def ctrUnit (v : Variant) (o : Operands) (e : Eng) (p : List Byte) : Eng :=
  let ks := encryptWith v e.rk (xorBytes (variantNonce v o) e.C)
  { emit e (xorBytes p ks) with C := nextCounter e.C }

/-- The input bytes of block `k` of size `b`, the last one possibly partial (R435). -/
def blockChunk (b n k : Nat) : Nat × Nat := (b * k, min (b * k + b) n)

/-- Output byte `j` depends on input byte `j` (20_memory.md R209). -/
def bytewise (_ j : Nat) : Nat × Nat := (j, j + 1)

/-- bc.ctr of a variant (30_encoding.md R310, 20_memory.md R201, R209; R436, R441). -/
def ctrRecipe (v : Variant) : Recipe :=
  { keyLen := some (variantKeyBytes v)
    nonceLen := some (blockBytes v)
    lenOk := fun _ => true
    inLen := fun n => n
    outLen := fun n => n
    inPlace := true
    needsEntropy := false
    units := fun n => ceilDiv n (blockBytes v)
    chunk := blockChunk (blockBytes v)
    deps := bytewise
    setup := ctrSetup v
    unit := ctrUnit v }

/-- `bc.ctr.speck64_96` (R442). -/
def execBcCtrSpeck64_96 (s : State) : Outcome := perform .bcCtrSpeck64_96 (ctrRecipe .speck64_96) s

/-- `bc.ctr.speck64_128` (R443). -/
def execBcCtrSpeck64_128 (s : State) : Outcome := perform .bcCtrSpeck64_128 (ctrRecipe .speck64_128) s

/-- `bc.ctr.speck128_128` (R444). -/
def execBcCtrSpeck128_128 (s : State) : Outcome := perform .bcCtrSpeck128_128 (ctrRecipe .speck128_128) s

/-- `bc.ctr.speck128_192` (R445). -/
def execBcCtrSpeck128_192 (s : State) : Outcome := perform .bcCtrSpeck128_192 (ctrRecipe .speck128_192) s

/-- `bc.ctr.speck128_256` (R446). -/
def execBcCtrSpeck128_256 (s : State) : Outcome := perform .bcCtrSpeck128_256 (ctrRecipe .speck128_256) s

/-- `bc.ctr.simon64_96` (R447). -/
def execBcCtrSimon64_96 (s : State) : Outcome := perform .bcCtrSimon64_96 (ctrRecipe .simon64_96) s

/-- `bc.ctr.simon64_128` (R448). -/
def execBcCtrSimon64_128 (s : State) : Outcome := perform .bcCtrSimon64_128 (ctrRecipe .simon64_128) s

/-- `bc.ctr.simon128_128` (R449). -/
def execBcCtrSimon128_128 (s : State) : Outcome := perform .bcCtrSimon128_128 (ctrRecipe .simon128_128) s

/-- `bc.ctr.simon128_192` (R450). -/
def execBcCtrSimon128_192 (s : State) : Outcome := perform .bcCtrSimon128_192 (ctrRecipe .simon128_192) s

/-- `bc.ctr.simon128_256` (R451). -/
def execBcCtrSimon128_256 (s : State) : Outcome := perform .bcCtrSimon128_256 (ctrRecipe .simon128_256) s

end Sys2Proof.Machine
end

