-- ==== Sys2Proof/Machine/ChaCha20.lean ====
section
/-! DEFINITION. The ChaCha20 stream cipher (45_chacha20.md R590 to R599). -/

namespace Sys2Proof.Machine

/-- The input state of block `i` (R590, R591, R592, R598). -/
def chachaLoad (o : Operands) (i : Nat) : Vector Word 16 :=
  let k := fun (j : Nat) => (wordsLE 32 8 (o.key.take 32)).getD j 0
  let m := fun (j : Nat) => (wordsLE 32 3 (o.nonce.take 12)).getD j 0
  #v[0x61707865, 0x3320646e, 0x79622d32, 0x6b206574, k 0, k 1, k 2, k 3, k 4, k 5, k 6, k 7,
     o.ctr + BitVec.ofNat 32 i, m 0, m 1, m 2]

/-- The quarter round on four words (R593). -/
def quarterWords (a b c d : Word) : Word × Word × Word × Word :=
  let a1 := a + b
  let d1 := (d ^^^ a1).rotateLeft 16
  let c1 := c + d1
  let b1 := (b ^^^ c1).rotateLeft 12
  let a2 := a1 + b1
  let d2 := (d1 ^^^ a2).rotateLeft 8
  let c2 := c1 + d2
  let b2 := (b1 ^^^ c2).rotateLeft 7
  (a2, b2, c2, d2)

/-- The quarter round on four places of the working array, in place (R593). -/
def quarterRound (w : Vector Word 16) (a b c d : Fin 16) : Vector Word 16 :=
  let q := quarterWords w[a] w[b] w[c] w[d]
  (((w.set a q.1).set b q.2.1).set c q.2.2.1).set d q.2.2.2

/-- The eight places of a double round: four columns, then four diagonals (R594). -/
def doubleRoundPlaces : List (Fin 16 × Fin 16 × Fin 16 × Fin 16) :=
  [(0, 4, 8, 12), (1, 5, 9, 13), (2, 6, 10, 14), (3, 7, 11, 15),
   (0, 5, 10, 15), (1, 6, 11, 12), (2, 7, 8, 13), (3, 4, 9, 14)]

/-- One double round (R594). -/
def doubleRound (w : Vector Word 16) : Vector Word 16 :=
  doubleRoundPlaces.foldl (fun w p => quarterRound w p.1 p.2.1 p.2.2.1 p.2.2.2) w

/-- `k` double rounds. -/
def doubleRounds : Nat → Vector Word 16 → Vector Word 16
  | 0, w => w
  | k + 1, w => doubleRounds k (doubleRound w)

/-- The block function and its serialisation: ten double rounds, the word-wise addition of the input state,
then little-endian bytes (R595, R596). -/
def chachaBlock (S : Vector Word 16) : List Byte :=
  bytesLE (List.zipWith (· + ·) (doubleRounds 10 S).toList S.toList)

/-- chacha20 needs no initialisation of its own before its first block (R599). -/
def chachaSetup (_ : Operands) (e : Eng) : Eng := e

/-- One block of chacha20 (R597, R599). -/
def chachaUnit (o : Operands) (e : Eng) (p : List Byte) : Eng :=
  let loaded := { e with chacha := chachaLoad o e.blk }
  emit loaded (xorBytes p (chachaBlock loaded.chacha))

/-- chacha20 (30_encoding.md R310, 20_memory.md R201, R209; R599). -/
def chachaRecipe : Recipe :=
  { keyLen := some 32
    nonceLen := some 12
    lenOk := fun _ => true
    inLen := fun n => n
    outLen := fun n => n
    inPlace := true
    needsEntropy := false
    units := fun n => ceilDiv n 64
    chunk := blockChunk 64
    deps := bytewise
    setup := chachaSetup
    unit := chachaUnit }

/-- `chacha20` (R599). -/
def execChacha20 (s : State) : Outcome := perform .chacha20 chachaRecipe s

end Sys2Proof.Machine
end

