-- ==== Sys2Proof/Machine/Codec.lean ====
section
/-! DEFINITION. The six codec commands (40_codec.md R406 to R415). -/

namespace Sys2Proof.Machine

/-- One word of a codec command: `count` words of the mode read in one order and written in the other; a
word list in memory is its little-endian image (R406). -/
def convert (d : Direction) (m : Mode) (count : Nat) (bs : List Byte) : List Byte :=
  match d, m with
  | .b2w, .le32 => bytesLE (wordsLE 32 count bs)
  | .b2w, .le64 => bytesLE (wordsLE 64 count bs)
  | .b2w, .be64 => bytesLE (wordsBE 64 count bs)
  | .w2b, .le32 => bytesLE (wordsLE 32 count bs)
  | .w2b, .le64 => bytesLE (wordsLE 64 count bs)
  | .w2b, .be64 => bytesBE (wordsLE 64 count bs)

/-- The codec commands need no initialisation. -/
def codecSetup (_ : Operands) (e : Eng) : Eng := e

/-- One word of a codec command (R406). -/
def codecUnit (d : Direction) (m : Mode) (_ : Operands) (e : Eng) (bs : List Byte) : Eng :=
  emit e (convert d m 1 bs)

/-- The input bytes of the same word (20_memory.md R209). -/
def wordwise (w _ j : Nat) : Nat × Nat := (w * (j / w), w * (j / w) + w)

/-- A codec command (30_encoding.md R310, 20_memory.md R201, R209; R406). -/
def codecRecipe (d : Direction) (m : Mode) : Recipe :=
  { keyLen := none
    nonceLen := none
    lenOk := fun n => n % modeBytes m == 0
    inLen := fun n => n
    outLen := fun n => n
    inPlace := true
    needsEntropy := false
    units := fun n => n / modeBytes m
    chunk := blockChunk (modeBytes m)
    deps := wordwise (modeBytes m)
    setup := codecSetup
    unit := codecUnit d m }

/-- `b2w.le32` (R410). -/
def execB2wLe32 (s : State) : Outcome := perform .b2wLe32 (codecRecipe .b2w .le32) s

/-- `b2w.le64` (R411). -/
def execB2wLe64 (s : State) : Outcome := perform .b2wLe64 (codecRecipe .b2w .le64) s

/-- `b2w.be64` (R412). -/
def execB2wBe64 (s : State) : Outcome := perform .b2wBe64 (codecRecipe .b2w .be64) s

/-- `w2b.le32` (R413). -/
def execW2bLe32 (s : State) : Outcome := perform .w2bLe32 (codecRecipe .w2b .le32) s

/-- `w2b.le64` (R414). -/
def execW2bLe64 (s : State) : Outcome := perform .w2bLe64 (codecRecipe .w2b .le64) s

/-- `w2b.be64` (R415). -/
def execW2bBe64 (s : State) : Outcome := perform .w2bBe64 (codecRecipe .w2b .be64) s

end Sys2Proof.Machine
end

