-- ==== Sys2Proof/Machine/Entropy.lean ====
section
/-! DEFINITION. The entropy port and the rng command (47_rng.md R660 to R673). -/

namespace Sys2Proof.Machine

/-- Whether a response is one the request may have (R661). -/
def answers (q : Request) (r : Response) : Bool :=
  match q, r with
  | .init, .present | .init, .absent => true
  | .byte, .data _ | .byte, .transient => true
  | .init, .data _ | .init, .transient => false
  | .byte, .present | .byte, .absent => false

/-- The entropy source gives a response (R660): the port holds it until an engine step takes it. A response
that answers no outstanding request is discarded (60_exceptions.md R710, U25; log 10). -/
def deliver (r : Response) (s : State) : State :=
  match s.rng.req with
  | some q => if answers q r then { s with rng := { s.rng with req := none, resp := some r } } else s
  | none => s

/-- Conditioning: none (R669). -/
def condition (v : Byte) : Byte := v

/-- rng (30_encoding.md R310, 20_memory.md R201, R209; R672). Its work is the phases below, not units. -/
def rngRecipe : Recipe :=
  { keyLen := none
    nonceLen := none
    lenOk := fun _ => true
    inLen := fun _ => 0
    outLen := fun n => n
    inPlace := true
    needsEntropy := true
    units := fun _ => 0
    chunk := fun _ _ => (0, 0)
    deps := fun _ _ => (0, 0)
    setup := fun _ e => e
    unit := fun _ e _ => e }

/-- Entering RNG_WAIT: while bytes are missing, a BYTE request is issued (R665, R667). -/
def enterWait (s : State) : State :=
  { s with
    eng := { s.eng with phase := .rngWait, retry := 0 }
    rng := { s.rng with req := if s.eng.off < s.len.toNat then some .byte else none, resp := none } }

/-- An rng command that passed its checks (R663): RNG_INIT with an INIT request, or RNG_WAIT. -/
def enterRng (s : State) : State :=
  match s.rng.init with
  | .uninit =>
    { s with
      eng := { s.eng with phase := .rngInit }
      rng := { s.rng with req := some .init, resp := none } }
  | .ready | .fatal => enterWait s

/-- Every output byte is written: the completion of rng (R668); free bytes if the host wrote to its output
range meanwhile (20_memory.md R223(b)). -/
def finishRng (s : State) : State :=
  if s.eng.spoiled then complete (freeOutput rngRecipe s) else complete s

/-- Phase RNG_INIT (R664). -/
def rngInitStep (s : State) : State :=
  match s.rng.resp with
  | some .present =>
    let s1 := { s with rng := { s.rng with init := .ready, resp := none } }
    if s.len.toNat = 0 then finishRng s1 else enterWait s1
  | some .absent =>
    failRunning rngRecipe .entropyAbsent { s with rng := { s.rng with init := .fatal, resp := none } }
  | some (.data _) | some .transient | none => s

/-- The DMA write of one random byte, and what it overwrote (R665, log 11). -/
def storeRandom (v : Byte) (s : State) : State :=
  let a := addrAt s.dst s.eng.off
  { s with
    mem := writeMem s.mem a (condition v)
    eng := { s.eng with off := s.eng.off + 1, under := s.eng.under ++ [readMem s.mem a] }
    rng := { s.rng with resp := none } }

/-- Phase RNG_WAIT (R665, R666, R668). -/
def rngWaitStep (s : State) : State :=
  if s.len.toNat ≤ s.eng.off then finishRng s
  else
    match s.rng.resp with
    | some (.data v) =>
      if canWrite s (addrAt s.dst s.eng.off) then
        let s1 := storeRandom v s
        if s1.eng.off = s.len.toNat then finishRng s1 else enterWait s1
      else failRunning rngRecipe .bus s
    | some .transient =>
      { s with
        eng := { s.eng with phase := .rngDelay, retry := s.platform.retryDelay }
        rng := { s.rng with resp := none } }
    | some .present | some .absent | none => s

/-- Phase RNG_DELAY (R667). -/
def rngDelayStep (s : State) : State :=
  if s.eng.retry - 1 = 0 then enterWait s
  else { s with eng := { s.eng with retry := s.eng.retry - 1 } }

/-- `rng` (R672): with the engine idle its acceptance, and while it runs one engine step of its phase. -/
def execRng (s : State) : Outcome :=
  match s.eng.phase with
  | .idle => accept .rng rngRecipe enterRng s
  | .rngInit => if runs .rng s then .next (rngInitStep s) else .fault .engineMismatch
  | .rngWait => if runs .rng s then .next (rngWaitStep s) else .fault .engineMismatch
  | .rngDelay => if runs .rng s then .next (rngDelayStep s) else .fault .engineMismatch
  | .run => .fault .engineMismatch

end Sys2Proof.Machine
end

