-- ==== Sys2Proof/Machine/Rabbit.lean ====
section
/-! DEFINITION. The Rabbit stream cipher (43_rabbit.md R530 to R543). -/

namespace Sys2Proof.Machine

/-- The counter constants A[0..7] (R531). -/
def rabbitA : Vector Word 8 :=
  #v[0x4D34D34D, 0xD34D34D3, 0x34D34D34, 0x4D34D34D, 0xD34D34D3, 0x34D34D34, 0x4D34D34D, 0xD34D34D3]

/-- One counter word of the counter update: c[j] and the carry that ripples on (R532). -/
def rabbitCount (r : Rabbit) (j : Fin 8) : Rabbit :=
  let t := r.c[j].toNat + rabbitA[j].toNat + r.carry.toNat
  { r with c := r.c.set j (BitVec.ofNat 32 t), carry := decide (2 ^ 32 ≤ t) }

/-- The counter update (R532). -/
def rabbitCounters (r : Rabbit) : Rabbit :=
  [0, 1, 2, 3, 4, 5, 6, 7].foldl rabbitCount r

/-- The g function (R533). -/
def rabbitG (u v : Word) : Word :=
  let q := (u + v).toNat * (u + v).toNat
  BitVec.ofNat 32 q ^^^ BitVec.ofNat 32 (q / 2 ^ 32)

/-- The next-state function (R534). -/
def rabbitNextState (r : Rabbit) : Rabbit :=
  let g := fun (j : Fin 8) => rabbitG r.x[j] r.c[j]
  let r16 := fun (w : Word) => w.rotateLeft 16
  let r8 := fun (w : Word) => w.rotateLeft 8
  { r with
    x := #v[g 0 + r16 (g 7) + r16 (g 6), g 1 + r8 (g 0) + g 7,
            g 2 + r16 (g 1) + r16 (g 0), g 3 + r8 (g 2) + g 1,
            g 4 + r16 (g 3) + r16 (g 2), g 5 + r8 (g 4) + g 3,
            g 6 + r16 (g 5) + r16 (g 4), g 7 + r8 (g 6) + g 5] }

/-- One iteration of the update function (R535). -/
def rabbitIterate (r : Rabbit) : Rabbit := rabbitNextState (rabbitCounters r)

/-- Four iterations (R536, R538). -/
def rabbitIterate4 (r : Rabbit) : Rabbit :=
  rabbitIterate (rabbitIterate (rabbitIterate (rabbitIterate r)))

/-- The key expansion of key setup (R536). -/
def rabbitExpand (key : List Byte) : Rabbit :=
  let k := fun (j : Nat) => (wordsLE 32 4 key).getD j 0
  let hi := fun (a b : Word) => (a <<< 16) ||| (b >>> 16)
  let mix := fun (a b : Word) => (a &&& 0xFFFF0000#32) ||| (b &&& 0x0000FFFF#32)
  { x := #v[k 0, hi (k 3) (k 2), k 1, hi (k 0) (k 3), k 2, hi (k 1) (k 0), k 3, hi (k 2) (k 1)]
    c := #v[(k 2).rotateLeft 16, mix (k 0) (k 1), (k 3).rotateLeft 16, mix (k 1) (k 2),
            (k 0).rotateLeft 16, mix (k 2) (k 3), (k 1).rotateLeft 16, mix (k 3) (k 0)]
    carry := false }

/-- The end of key setup: c[j] ^= x[(j+4) mod 8] (R536); the carry stays (R537). -/
def rabbitFold (r : Rabbit) : Rabbit :=
  { r with
    c := #v[r.c[0] ^^^ r.x[4], r.c[1] ^^^ r.x[5], r.c[2] ^^^ r.x[6], r.c[3] ^^^ r.x[7],
            r.c[4] ^^^ r.x[0], r.c[5] ^^^ r.x[1], r.c[6] ^^^ r.x[2], r.c[7] ^^^ r.x[3]] }

/-- Key setup (R536, R537): the master instance. -/
def rabbitKeySetup (key : List Byte) : Rabbit := rabbitFold (rabbitIterate4 (rabbitExpand key))

/-- The subvectors of the IV (R538). -/
def rabbitIvWord (iv : List Byte) (j : Fin 4) : Word :=
  let i0 := BitVec.ofNat 32 (leNat (iv.take 4))
  let i2 := BitVec.ofNat 32 (leNat (iv.drop 4))
  match j with
  | 0 => i0
  | 1 => (i0 >>> 16) ||| (i2 &&& 0xFFFF0000#32)
  | 2 => i2
  | 3 => (i2 <<< 16) ||| (i0 &&& 0x0000FFFF#32)

/-- IV setup (R538): the work instance from the master. -/
def rabbitIvSetup (master : Rabbit) (iv : List Byte) : Rabbit :=
  let i := rabbitIvWord iv
  let m := master.c
  rabbitIterate4
    { master with
      c := #v[m[0] ^^^ i 0, m[1] ^^^ i 1, m[2] ^^^ i 2, m[3] ^^^ i 3,
              m[4] ^^^ i 0, m[5] ^^^ i 1, m[6] ^^^ i 2, m[7] ^^^ i 3] }

/-- Extraction of a 16-byte keystream block (R541). -/
def rabbitExtract (x : Vector Word 8) : List Byte :=
  bytesLE [x[0] ^^^ (x[5] >>> 16) ^^^ (x[3] <<< 16), x[2] ^^^ (x[7] >>> 16) ^^^ (x[5] <<< 16),
           x[4] ^^^ (x[1] >>> 16) ^^^ (x[7] <<< 16), x[6] ^^^ (x[3] >>> 16) ^^^ (x[1] <<< 16)]

/-- The initialisation of rabbit: key setup, then IV setup (R539, R543). -/
def rabbitSetup (o : Operands) (e : Eng) : Eng :=
  let keyed := { e with rabbitMaster := rabbitKeySetup (o.key.take 16) }
  { keyed with rabbitWork := rabbitIvSetup keyed.rabbitMaster (o.nonce.take 8) }

/-- One block of rabbit (R540, R542, R543). -/
def rabbitUnit (_ : Operands) (e : Eng) (p : List Byte) : Eng :=
  let work := rabbitIterate e.rabbitWork
  { emit e (xorBytes p (rabbitExtract work.x)) with rabbitWork := work }

/-- rabbit (30_encoding.md R310, 20_memory.md R201, R209; R543). -/
def rabbitRecipe : Recipe :=
  { keyLen := some 16
    nonceLen := some 8
    lenOk := fun n => n % 16 == 0
    inLen := fun n => n
    outLen := fun n => n
    inPlace := true
    needsEntropy := false
    units := fun n => n / 16
    chunk := blockChunk 16
    deps := bytewise
    setup := rabbitSetup
    unit := rabbitUnit }

/-- `rabbit` (R543). -/
def execRabbit (s : State) : Outcome := perform .rabbit rabbitRecipe s

end Sys2Proof.Machine
end

