-- ==== Sys2Proof/Machine/Sha512.lean ====
section
/-! DEFINITION. The SHA-512 hash compression engine (46_sha512.md R620 to R632). -/

namespace Sys2Proof.Machine

/-- Round constants K[0..19], by the rows of the table of R621. -/
def shaKRows0 : List (List DWord) :=
  [[0x428a2f98d728ae22, 0x7137449123ef65cd, 0xb5c0fbcfec4d3b2f, 0xe9b5dba58189dbbc],
   [0x3956c25bf348b538, 0x59f111f1b605d019, 0x923f82a4af194f9b, 0xab1c5ed5da6d8118],
   [0xd807aa98a3030242, 0x12835b0145706fbe, 0x243185be4ee4b28c, 0x550c7dc3d5ffb4e2],
   [0x72be5d74f27b896f, 0x80deb1fe3b1696b1, 0x9bdc06a725c71235, 0xc19bf174cf692694],
   [0xe49b69c19ef14ad2, 0xefbe4786384f25e3, 0x0fc19dc68b8cd5b5, 0x240ca1cc77ac9c65]]

/-- Round constants K[20..39], by the rows of the table of R621. -/
def shaKRows1 : List (List DWord) :=
  [[0x2de92c6f592b0275, 0x4a7484aa6ea6e483, 0x5cb0a9dcbd41fbd4, 0x76f988da831153b5],
   [0x983e5152ee66dfab, 0xa831c66d2db43210, 0xb00327c898fb213f, 0xbf597fc7beef0ee4],
   [0xc6e00bf33da88fc2, 0xd5a79147930aa725, 0x06ca6351e003826f, 0x142929670a0e6e70],
   [0x27b70a8546d22ffc, 0x2e1b21385c26c926, 0x4d2c6dfc5ac42aed, 0x53380d139d95b3df],
   [0x650a73548baf63de, 0x766a0abb3c77b2a8, 0x81c2c92e47edaee6, 0x92722c851482353b]]

/-- Round constants K[40..59], by the rows of the table of R621. -/
def shaKRows2 : List (List DWord) :=
  [[0xa2bfe8a14cf10364, 0xa81a664bbc423001, 0xc24b8b70d0f89791, 0xc76c51a30654be30],
   [0xd192e819d6ef5218, 0xd69906245565a910, 0xf40e35855771202a, 0x106aa07032bbd1b8],
   [0x19a4c116b8d2d0c8, 0x1e376c085141ab53, 0x2748774cdf8eeb99, 0x34b0bcb5e19b48a8],
   [0x391c0cb3c5c95a63, 0x4ed8aa4ae3418acb, 0x5b9cca4f7763e373, 0x682e6ff3d6b2b8a3],
   [0x748f82ee5defb2fc, 0x78a5636f43172f60, 0x84c87814a1f0ab72, 0x8cc702081a6439ec]]

/-- Round constants K[60..79], by the rows of the table of R621. -/
def shaKRows3 : List (List DWord) :=
  [[0x90befffa23631e28, 0xa4506cebde82bde9, 0xbef9a3f7b2c67915, 0xc67178f2e372532b],
   [0xca273eceea26619c, 0xd186b8c721c0c207, 0xeada7dd6cde0eb1e, 0xf57d4f7fee6ed178],
   [0x06f067aa72176fba, 0x0a637dc5a2c898a6, 0x113f9804bef90dae, 0x1b710b35131c471b],
   [0x28db77f523047d84, 0x32caab7b40c72493, 0x3c9ebe0a15c9bebc, 0x431d67c49c100d4c],
   [0x4cc5d4becb3e42b6, 0x597f299cfc657e2a, 0x5fcb6fab3ad6faec, 0x6c44198c4a475817]]

/-- The 80 round constants (R621). -/
def shaK : List DWord := (shaKRows0 ++ shaKRows1 ++ shaKRows2 ++ shaKRows3).flatten

/-- The exclusive-or of several words: what every logical function of R622 ends in. -/
def xorAll (xs : List DWord) : DWord := xs.foldl (· ^^^ ·) 0

/-- The word rotated right by each of the distances, and the results combined. -/
def xorRotations (distances : List Nat) (x : DWord) : DWord := xorAll (distances.map x.rotateRight)

/-- σ0 and σ1 (R622): two rotations and a logical shift. -/
def shaExpand (distances : List Nat) (shift : Nat) (x : DWord) : DWord :=
  xorRotations distances x ^^^ (x >>> shift)

/-- The next message word, W[t] with t = |W|: σ1 of the word 2 back, the word 7 back, σ0 of the word 15 back and
the word 16 back (R622, R626). -/
def shaNextWord (W : List DWord) : DWord :=
  let back := fun n => W.getD (W.length - n) 0
  shaExpand [19, 61] 6 (back 2) + back 7 + shaExpand [1, 8] 7 (back 15) + back 16

/-- `count` more words of the message schedule (R626). -/
def shaExtend : Nat → List DWord → List DWord
  | 0, W => W
  | count + 1, W => shaExtend count (W ++ [shaNextWord W])

/-- W[0..79] of a 128-byte block (R625, R626). -/
def shaSchedule (M : List Byte) : List DWord := shaExtend 64 (wordsBE 64 16 M)

/-- Σ1(e) + Ch(e, f, g): what T1 takes from the second half of the working words (R622, R627). -/
def shaChoice (v : Vector DWord 8) : DWord :=
  xorRotations [14, 18, 41] v[4] + xorAll [v[4] &&& v[5], ~~~v[4] &&& v[6]]

/-- Σ0(a) + Maj(a, b, c): the T2 of R627, from the first half of the working words (R622). -/
def shaMajority (v : Vector DWord 8) : DWord :=
  xorRotations [28, 34, 39] v[0] + xorAll [v[0] &&& v[1], v[0] &&& v[2], v[1] &&& v[2]]

/-- One round on (a, ..., h) with K[t] and W[t] (R627): every word moves one place on, e takes T1 besides, and the
word that leaves, h, comes back as T1 + T2 at a. -/
def shaRound (v : Vector DWord 8) (kw : DWord × DWord) : Vector DWord 8 :=
  let T1 := v[7] + shaChoice v + kw.1 + kw.2
  let first : Vector DWord 4 := #v[T1 + shaMajority v, v[0], v[1], v[2]]
  let second : Vector DWord 4 := #v[v[3] + T1, v[4], v[5], v[6]]
  first ++ second

/-- The word-by-word sum of two hash states (the feed-forward of R627). -/
def shaFeedForward (H v : Vector DWord 8) : Vector DWord 8 := Vector.ofFn fun i => H[i] + v[i]

/-- The compression of one block (R627). -/
def shaCompress (H : Vector DWord 8) (M : List Byte) : Vector DWord 8 :=
  shaFeedForward H ((shaK.zip (shaSchedule M)).foldl shaRound H)

/-- How many blocks the final buffer of a message of L bytes has (R628). -/
def shaFinalBlocks (L : Nat) : Nat := if L % 128 ≤ 111 then 1 else 2

/-- The final buffer of a message of L bytes whose last partial block is `tail`: the zero bytes fill the blocks
that the partial block, the byte 0x80 and the length field do not (R628). -/
def shaPad (L : Nat) (tail : List Byte) : List Byte :=
  let zeros := 128 * shaFinalBlocks L - tail.length - 17
  tail ++ 0x80 :: (List.replicate zeros 0 ++ beBytes 16 (8 * L))

/-- The digest (R630). -/
def shaDigest (H : Vector DWord 8) : List Byte := bytesBE H.toList

/-- The hash value every sha512 command starts from (R623). -/
def shaInit : Vector DWord 8 :=
  #v[0x6a09e667f3bcc908, 0xbb67ae8584caa73b, 0x3c6ef372fe94f82b, 0xa54ff53a5f1d36f1,
     0x510e527fade682d1, 0x9b05688c2b3e6c1f, 0x1f83d9abfb41bd6b, 0x5be0cd19137e2179]

/-- The initialisation of sha512 (R623). -/
def shaSetup (o : Operands) (e : Eng) : Eng :=
  { e with H := shaInit, buf := [], total := BitVec.ofNat 32 o.len }

/-- One unit of sha512 (R629, R632): a whole block of the message; or the final buffer is built; or one of
its blocks is compressed, and after the last the digest is the output. What eng.buf holds meanwhile is left open by
R620, R623 and R632; DESIGN CHOICE, log 31: the last whole block read, then the final buffer's blocks not yet
compressed. -/
def shaUnit (_ : Operands) (e : Eng) (p : List Byte) : Eng :=
  let L := e.total.toNat
  if e.blk < L / 128 then
    { e with buf := p, H := shaCompress e.H p, blk := e.blk + 1 }
  else if e.blk = L / 128 then
    { e with buf := shaPad L p, blk := e.blk + 1 }
  else
    let H := shaCompress e.H (e.buf.take 128)
    let buf := e.buf.drop 128
    if buf = [] then { emit e (shaDigest H) with H := H, buf := buf }
    else { e with H := H, buf := buf, blk := e.blk + 1 }

/-- sha512 (30_encoding.md R310, 20_memory.md R201, R209; R632): it refuses any intersection of its
ranges. -/
def shaRecipe : Recipe :=
  { keyLen := none
    nonceLen := none
    lenOk := fun _ => true
    inLen := fun n => n
    outLen := fun _ => 64
    inPlace := false
    needsEntropy := false
    units := fun n => n / 128 + 1 + shaFinalBlocks n
    chunk := fun n k => (min (128 * k) n, min (128 * k + 128) n)
    deps := fun n _ => (0, n)
    setup := shaSetup
    unit := shaUnit }

/-- `sha512` (R632). -/
def execSha512 (s : State) : Outcome := perform .sha512 shaRecipe s

end Sys2Proof.Machine
end

