-- ==== Sys2Proof/Machine/Trivium.lean ====
section
/-! DEFINITION. The Trivium stream cipher (44_trivium.md R560 to R569). -/

namespace Sys2Proof.Machine

/-- Bit s_i of the state, i = 1..288 (R560). -/
def trivBit (t : Triv) (i : Nat) : Bool :=
  if i ≤ 93 then t.a.getLsbD (i - 1)
  else if i ≤ 177 then t.b.getLsbD (i - 94)
  else t.c.getLsbD (i - 178)

/-- The bits `f 0`, `f 1`, ..., `f (w-1)` as a number, `f 0` least significant. -/
def bitsNat (f : Nat → Bool) : Nat → Nat
  | 0 => 0
  | w + 1 => bitsNat f w + (if f w then 2 ^ w else 0)

/-- Loading (R562): key and IV bits in reverse order, and the three ones of register C. -/
def trivLoad (key iv : List Byte) : Triv :=
  let kappa := BitVec.ofNat 80 (leNat key)
  let nu := BitVec.ofNat 80 (leNat iv)
  { a := BitVec.ofNat 93 (bitsNat (fun p => kappa.getLsbD (79 - p)) 80)
    b := BitVec.ofNat 84 (bitsNat (fun p => nu.getLsbD (79 - p)) 80)
    c := BitVec.ofNat 111 (2 ^ 108 + 2 ^ 109 + 2 ^ 110) }

/-- A register shifted by one, with a new first bit (R563). -/
def shiftIn {w : Nat} (r : BitVec w) (b : Bool) : BitVec w := (r <<< 1) ||| BitVec.ofNat w b.toNat

/-- One step of Trivium: the keystream bit z and the state after it (R563). -/
def trivStep (t : Triv) : Bool × Triv :=
  let s := trivBit t
  let t1 := s 66 ^^ s 93
  let t2 := s 162 ^^ s 177
  let t3 := s 243 ^^ s 288
  (t1 ^^ t2 ^^ t3,
   { a := shiftIn t.a (t3 ^^ (s 286 && s 287) ^^ s 69)
     b := shiftIn t.b (t1 ^^ (s 91 && s 92) ^^ s 171)
     c := shiftIn t.c (t2 ^^ (s 175 && s 176) ^^ s 264) })

/-- `k` steps whose keystream bits are discarded (R564). -/
def trivDiscard : Nat → Triv → Triv
  | 0, t => t
  | k + 1, t => trivDiscard k (trivStep t).2

/-- The next keystream byte, its first bit least significant (R566): `k` more bits, the first of weight
2^w. -/
def trivBits : Nat → Nat → Triv → Nat × Triv
  | 0, _, t => (0, t)
  | k + 1, w, t =>
    let z := trivStep t
    let rest := trivBits k (w + 1) z.2
    ((if z.1 then 2 ^ w else 0) + rest.1, rest.2)

/-- The next `k` keystream bytes (R566). -/
def trivBytes : Nat → Triv → List Byte × Triv
  | 0, t => ([], t)
  | k + 1, t =>
    let b := trivBits 8 0 t
    let rest := trivBytes k b.2
    (BitVec.ofNat 8 b.1 :: rest.1, rest.2)

/-- Loading and the 4 x 288 warm-up steps (R562, R564). -/
def trivStart (key iv : List Byte) : Triv := trivDiscard 1152 (trivLoad key iv)

/-- The initialisation of trivium (R569). -/
def triviumSetup (o : Operands) (e : Eng) : Eng :=
  { e with triv := trivStart (o.key.take 10) (o.nonce.take 10) }

/-- One 64-bit output word of trivium, of which the last may be written in part (R567, R568). -/
def triviumUnit (o : Operands) (e : Eng) (_ : List Byte) : Eng :=
  let w := trivBytes 8 e.triv
  { emit e (w.1.take (o.len - e.off)) with triv := w.2 }

/-- trivium (30_encoding.md R310, 20_memory.md R201, R209; R569): it reads no input. -/
def triviumRecipe : Recipe :=
  { keyLen := some 10
    nonceLen := some 10
    lenOk := fun _ => true
    inLen := fun _ => 0
    outLen := fun n => n
    inPlace := true
    needsEntropy := false
    units := fun n => ceilDiv n 8
    chunk := fun _ _ => (0, 0)
    deps := fun _ _ => (0, 0)
    setup := triviumSetup
    unit := triviumUnit }

/-- `trivium` (R569). -/
def execTrivium (s : State) : Outcome := perform .trivium triviumRecipe s

end Sys2Proof.Machine
end

