-- ==== Sys2Proof/Machine/Dispatch.lean ====
section
/-! DEFINITION. One arm per command. -/

namespace Sys2Proof.Machine

def exec (i : Instr) (s : State) : Host.Outcome State Fault Refusal :=
  match i with
  | .bcCtrSpeck64_96 => Sys2Proof.Machine.execBcCtrSpeck64_96 s
  | .bcCtrSpeck64_128 => Sys2Proof.Machine.execBcCtrSpeck64_128 s
  | .bcCtrSpeck128_128 => Sys2Proof.Machine.execBcCtrSpeck128_128 s
  | .bcCtrSpeck128_192 => Sys2Proof.Machine.execBcCtrSpeck128_192 s
  | .bcCtrSpeck128_256 => Sys2Proof.Machine.execBcCtrSpeck128_256 s
  | .bcCtrSimon64_96 => Sys2Proof.Machine.execBcCtrSimon64_96 s
  | .bcCtrSimon64_128 => Sys2Proof.Machine.execBcCtrSimon64_128 s
  | .bcCtrSimon128_128 => Sys2Proof.Machine.execBcCtrSimon128_128 s
  | .bcCtrSimon128_192 => Sys2Proof.Machine.execBcCtrSimon128_192 s
  | .bcCtrSimon128_256 => Sys2Proof.Machine.execBcCtrSimon128_256 s
  | .bcEncSpeck64_96 => Sys2Proof.Machine.execBcEncSpeck64_96 s
  | .bcEncSpeck64_128 => Sys2Proof.Machine.execBcEncSpeck64_128 s
  | .bcEncSpeck128_128 => Sys2Proof.Machine.execBcEncSpeck128_128 s
  | .bcEncSpeck128_192 => Sys2Proof.Machine.execBcEncSpeck128_192 s
  | .bcEncSpeck128_256 => Sys2Proof.Machine.execBcEncSpeck128_256 s
  | .bcEncSimon64_96 => Sys2Proof.Machine.execBcEncSimon64_96 s
  | .bcEncSimon64_128 => Sys2Proof.Machine.execBcEncSimon64_128 s
  | .bcEncSimon128_128 => Sys2Proof.Machine.execBcEncSimon128_128 s
  | .bcEncSimon128_192 => Sys2Proof.Machine.execBcEncSimon128_192 s
  | .bcEncSimon128_256 => Sys2Proof.Machine.execBcEncSimon128_256 s
  | .rabbit => Sys2Proof.Machine.execRabbit s
  | .trivium => Sys2Proof.Machine.execTrivium s
  | .chacha20 => Sys2Proof.Machine.execChacha20 s
  | .sha512 => Sys2Proof.Machine.execSha512 s
  | .rng => Sys2Proof.Machine.execRng s
  | .b2wLe32 => Sys2Proof.Machine.execB2wLe32 s
  | .b2wLe64 => Sys2Proof.Machine.execB2wLe64 s
  | .b2wBe64 => Sys2Proof.Machine.execB2wBe64 s
  | .w2bLe32 => Sys2Proof.Machine.execW2bLe32 s
  | .w2bLe64 => Sys2Proof.Machine.execW2bLe64 s
  | .w2bBe64 => Sys2Proof.Machine.execW2bBe64 s

end Sys2Proof.Machine
end

