-- ==== Sys2Proof/Machine/Agents.lean ====
section
/-! DEFINITION. The steps of the three agents and of the platform (10_state.md R101): the host's register and
memory accesses, the engine's move, the entropy source's responses, and reset. -/

namespace Sys2Proof.Machine

/-- The recipe of each command. -/
def recipeOf : Instr → Recipe
  | .bcCtrSpeck64_96 => ctrRecipe .speck64_96
  | .bcCtrSpeck64_128 => ctrRecipe .speck64_128
  | .bcCtrSpeck128_128 => ctrRecipe .speck128_128
  | .bcCtrSpeck128_192 => ctrRecipe .speck128_192
  | .bcCtrSpeck128_256 => ctrRecipe .speck128_256
  | .bcCtrSimon64_96 => ctrRecipe .simon64_96
  | .bcCtrSimon64_128 => ctrRecipe .simon64_128
  | .bcCtrSimon128_128 => ctrRecipe .simon128_128
  | .bcCtrSimon128_192 => ctrRecipe .simon128_192
  | .bcCtrSimon128_256 => ctrRecipe .simon128_256
  | .bcEncSpeck64_96 => encRecipe .speck64_96
  | .bcEncSpeck64_128 => encRecipe .speck64_128
  | .bcEncSpeck128_128 => encRecipe .speck128_128
  | .bcEncSpeck128_192 => encRecipe .speck128_192
  | .bcEncSpeck128_256 => encRecipe .speck128_256
  | .bcEncSimon64_96 => encRecipe .simon64_96
  | .bcEncSimon64_128 => encRecipe .simon64_128
  | .bcEncSimon128_128 => encRecipe .simon128_128
  | .bcEncSimon128_192 => encRecipe .simon128_192
  | .bcEncSimon128_256 => encRecipe .simon128_256
  | .rabbit => rabbitRecipe
  | .trivium => triviumRecipe
  | .chacha20 => chachaRecipe
  | .sha512 => shaRecipe
  | .rng => rngRecipe
  | .b2wLe32 => codecRecipe .b2w .le32
  | .b2wLe64 => codecRecipe .b2w .le64
  | .b2wBe64 => codecRecipe .b2w .be64
  | .w2bLe32 => codecRecipe .w2b .le32
  | .w2bLe64 => codecRecipe .w2b .le64
  | .w2bBe64 => codecRecipe .w2b .be64

/-- The command the engine runs, from eng.op and eng.var (R130); none with the engine idle. -/
def runningCommand (s : State) : Option Instr :=
  match s.eng.phase with
  | .idle => none
  | .run | .rngInit | .rngWait | .rngDelay =>
    match decodeFields { rsv := 0, var := s.eng.var, op := s.eng.op } with
    | .ok i => some i
    | .error _ => none

/-! ### The host's register accesses (R103) -/

/-- Whether an access of `size` bytes at a host-bus address touches the register block. -/
def touchesBlock (s : State) (addr size : Nat) : Bool :=
  decide (s.platform.baseAddr < addr + size ∧ addr < s.platform.baseAddr + 256)

/-- Whether an access is 32 bits wide at an offset that is a multiple of 4 (R103). -/
def accessLegal (s : State) (addr size : Nat) : Bool :=
  decide (size = 4 ∧ s.platform.baseAddr ≤ addr ∧ (addr - s.platform.baseAddr) % 4 = 0)

/-- The register an access reaches; none at a reserved offset (R104). -/
def regOf (s : State) (addr : Nat) : Option Reg := regAt (addr - s.platform.baseAddr)

/-- A register read (R103, R104, R119). An access elsewhere on the host bus is no access to the CORE
(log 22). -/
def hostRegRead (addr size : Nat) (s : State) : Outcome :=
  if touchesBlock s addr size then
    if accessLegal s addr size then
      match regOf s addr with
      | some r => .next { s with rdata := readReg r s }
      | none => .next { s with rdata := 0 }
    else .refused .registerAccess
  else .next s

/-- A write of a word to CMD (R105): lost while a command runs (R118), else accepted; what the decoder takes
is accepted as that command, the rest is rejected (30_encoding.md R302; 60_exceptions.md R705). -/
def writeCmd (v : Word) (s : State) : Outcome :=
  if s.status.busy then .next (setOvr s)
  else
    match decode (bytesOfWord v) with
    | .ok (i, _) => exec i s
    | .error r => .next (rejectWord v r s)

/-- A register write (R103 to R118). -/
def hostRegWrite (addr size : Nat) (v : Word) (s : State) : Outcome :=
  if touchesBlock s addr size then
    if accessLegal s addr size then
      match regOf s addr with
      | some .cmd => writeCmd v s
      | some r => .next (writeReg r v s)
      | none => .next s
    else .refused .registerAccess
  else .next s

/-! ### The host's memory accesses (20_memory.md R200, R223) -/

/-- Whether the host did what R227 asks of it. -/
def hostCoherent (s : State) (maintained : Bool) : Bool := s.platform.coherent || maintained

/-- What the host reads at a byte of a running command's output range: the old or the new value, by the free
choice of the next draw; a free byte once the host wrote to the ranges (R223). -/
def runningRead (c : Recipe) (s : State) (a : Nat) : Byte :=
  let j := a - s.dst.toNat
  if s.eng.spoiled then Config.freeByte s.draws
  else
    match s.eng.phase with
    | .run => oldOrComputed c s j s.draws
    | .idle | .rngInit | .rngWait | .rngDelay =>
      if decide (j < s.eng.under.length) && Config.pick s.draws then s.eng.under.getD j 0
      else readMem s.mem a

/-- A memory read by the host. The spec speaks only of commands over the register block (20_memory.md R203) and
over addresses with read side effects (R208); DESIGN CHOICE, logs 29 and 30: a host access there is one of
plain memory, so this reads the memory byte, never a register, with no side effect and no refusal. -/
def hostMemRead (a : Word) (maintained : Bool) (s : State) : Outcome :=
  if hostCoherent s maintained then
    match runningCommand s with
    | some i =>
      if inOutput (recipeOf i) s a.toNat then
        .next { s with mdata := runningRead (recipeOf i) s a.toNat, draws := s.draws + 1 }
      else .next { s with mdata := readMem s.mem a.toNat }
    | none => .next { s with mdata := readMem s.mem a.toNat }
  else .refused .incoherentHost

/-- Whether an address lies in a range of the running command. -/
def inRunningRanges (s : State) (a : Nat) : Bool :=
  match runningCommand s with
  | some i => inInput (recipeOf i) s a || inOutput (recipeOf i) s a
  | none => false

/-- A memory write by the host; in a running command's ranges it leaves the command's output unspecified
(R223(b)). DESIGN CHOICE, logs 29 and 30, as for hostMemRead: at an address of the register block (R203) or
of a device (R208) it writes the memory byte, never a register, with no other effect and no refusal. -/
def hostMemWrite (a : Word) (b : Byte) (maintained : Bool) (s : State) : Outcome :=
  if hostCoherent s maintained then
    .next { s with
      mem := writeMem s.mem a.toNat b
      eng := { s.eng with spoiled := s.eng.spoiled || inRunningRanges s a.toNat } }
  else .refused .incoherentHost

/-! ### The engine, the entropy source, reset -/

/-- The engine's move (R140): nothing while idle; else the running command carries on by `grain + 1`
units. -/
def engineMove (grain : Nat) (s : State) : Outcome :=
  match s.eng.phase with
  | .idle => .next s
  | .run | .rngInit | .rngWait | .rngDelay =>
    match runningCommand s with
    | some i => exec i { s with grain := grain }
    | none => .fault .engineMismatch

/-- Reset (70_reset_and_hazards.md R800): a running command is abandoned, its output range old or computed
byte by byte (R801). -/
def hostReset (s : State) : State :=
  match runningCommand s with
  | some i => resetCore (settle (recipeOf i) s)
  | none => resetCore s

/-- One move of one agent. -/
def act (m : Move) (s : State) : Outcome :=
  match m with
  | .regRead addr size => hostRegRead addr size s
  | .regWrite addr size v => hostRegWrite addr size v s
  | .memRead a maintained => hostMemRead a maintained s
  | .memWrite a b maintained => hostMemWrite a b maintained s
  | .engine grain => engineMove grain s
  | .entropy r => .next (deliver r s)
  | .lateEntropy _ => .next s
  | .reset => .next (hostReset s)

/-- The first of the later moves (log 1). -/
def laterMove (l : Later) : Move :=
  match l with
  | .cycle (m :: _) => m
  | .cycle [] => .engine 0
  | .free k => Config.freeMove k

/-- What the agenda is once the first of the later moves is taken: the rest of one round of a cycle. -/
def laterAgenda (l : Later) : List Move :=
  match l with
  | .cycle moves => moves.tail
  | .free _ => []

/-- What comes after that agenda. -/
def laterRest (l : Later) : Later :=
  match l with
  | .cycle moves => .cycle moves
  | .free k => .free (k + 1)

/-- The next move: the head of the agenda, or the first of the later moves when the agenda is empty (log 1). -/
def nextMove (s : State) : Move :=
  match s.agenda with
  | m :: _ => m
  | [] => laterMove s.later

/-- The state with the next move taken off the schedule. -/
def takeMove (s : State) : State :=
  { s with
    agenda := match s.agenda with
      | _ :: rest => rest
      | [] => laterAgenda s.later
    later := match s.agenda with
      | _ :: _ => s.later
      | [] => laterRest s.later }

/-- The host's write of a word to CMD, as a move (R103, R105). -/
def commandMove (s : State) (v : Word) : Move := .regWrite (s.platform.baseAddr + 0x04) 4 v

end Sys2Proof.Machine
end

