-- ==== Sys2Proof/Machine/Step.lean ====
section
/-! DEFINITION. One step of the machine: the next move of the schedule (10_state.md R101). -/

namespace Sys2Proof.Machine

/-- One step: the agent whose move is next moves (log 1). -/
def step (s : State) : Host.Outcome State Fault Refusal := act (nextMove s) (takeMove s)

/-- The state in which the very next step is the host's write of the instruction's word to CMD with the engine
idle: the CORE fetches nothing, a command comes to run by that write (10_state.md R105, R140; log 2). -/
def State.withFetchWord (s : State) (nbits w : Nat) : State :=
  { s with
    status := { s.status with busy := false }
    eng := Eng.zero
    agenda := commandMove s (BitVec.ofNat 32 (w % 2 ^ nbits)) :: s.agenda }

end Sys2Proof.Machine
end

