-- ==== Sys2Proof/Safety.lean ====
section
/-! DEFINITION. The terms claims about the machine use: when a command is ready to run, what it must write by
the spec's own formulas, and the invariant of the machine. -/

namespace Sys2Proof.Machine

/-! ### Commands by family -/

/-- bc.ctr of a variant. -/
def ctrOf : Variant → Instr
  | .speck64_96 => .bcCtrSpeck64_96
  | .speck64_128 => .bcCtrSpeck64_128
  | .speck128_128 => .bcCtrSpeck128_128
  | .speck128_192 => .bcCtrSpeck128_192
  | .speck128_256 => .bcCtrSpeck128_256
  | .simon64_96 => .bcCtrSimon64_96
  | .simon64_128 => .bcCtrSimon64_128
  | .simon128_128 => .bcCtrSimon128_128
  | .simon128_192 => .bcCtrSimon128_192
  | .simon128_256 => .bcCtrSimon128_256

/-- bc.enc of a variant. -/
def encOf : Variant → Instr
  | .speck64_96 => .bcEncSpeck64_96
  | .speck64_128 => .bcEncSpeck64_128
  | .speck128_128 => .bcEncSpeck128_128
  | .speck128_192 => .bcEncSpeck128_192
  | .speck128_256 => .bcEncSpeck128_256
  | .simon64_96 => .bcEncSimon64_96
  | .simon64_128 => .bcEncSimon64_128
  | .simon128_128 => .bcEncSimon128_128
  | .simon128_192 => .bcEncSimon128_192
  | .simon128_256 => .bcEncSimon128_256

/-- The codec command of a direction and a mode. -/
def codecOf : Direction → Mode → Instr
  | .b2w, .le32 => .b2wLe32
  | .b2w, .le64 => .b2wLe64
  | .b2w, .be64 => .b2wBe64
  | .w2b, .le32 => .w2bLe32
  | .w2b, .le64 => .w2bLe64
  | .w2b, .be64 => .w2bBe64

/-! ### What a command asks of its parameter registers, from the tables of 30_encoding.md R310 and 20_memory.md
R201 -/

/-- Whether a command has an input range (R201). -/
def readsInput : Instr → Bool
  | .trivium | .rng => false
  | .bcCtrSpeck64_96 | .bcCtrSpeck64_128 | .bcCtrSpeck128_128 | .bcCtrSpeck128_192 | .bcCtrSpeck128_256 => true
  | .bcCtrSimon64_96 | .bcCtrSimon64_128 | .bcCtrSimon128_128 | .bcCtrSimon128_192 | .bcCtrSimon128_256 => true
  | .bcEncSpeck64_96 | .bcEncSpeck64_128 | .bcEncSpeck128_128 | .bcEncSpeck128_192 | .bcEncSpeck128_256 => true
  | .bcEncSimon64_96 | .bcEncSimon64_128 | .bcEncSimon128_128 | .bcEncSimon128_192 | .bcEncSimon128_256 => true
  | .rabbit | .chacha20 | .sha512 => true
  | .b2wLe32 | .b2wLe64 | .b2wBe64 | .w2bLe32 | .w2bLe64 | .w2bBe64 => true

/-- The key length CFG.KLEN must declare (R310). -/
def requiredKey : Instr → Option Nat
  | .bcCtrSpeck64_96 | .bcEncSpeck64_96 | .bcCtrSimon64_96 | .bcEncSimon64_96 => some 12
  | .bcCtrSpeck64_128 | .bcEncSpeck64_128 | .bcCtrSimon64_128 | .bcEncSimon64_128 => some 16
  | .bcCtrSpeck128_128 | .bcEncSpeck128_128 | .bcCtrSimon128_128 | .bcEncSimon128_128 => some 16
  | .bcCtrSpeck128_192 | .bcEncSpeck128_192 | .bcCtrSimon128_192 | .bcEncSimon128_192 => some 24
  | .bcCtrSpeck128_256 | .bcEncSpeck128_256 | .bcCtrSimon128_256 | .bcEncSimon128_256 => some 32
  | .rabbit => some 16
  | .trivium => some 10
  | .chacha20 => some 32
  | .sha512 | .rng => none
  | .b2wLe32 | .b2wLe64 | .b2wBe64 | .w2bLe32 | .w2bLe64 | .w2bBe64 => none

/-- The nonce length CFG.NLEN must declare (R310). -/
def requiredNonce : Instr → Option Nat
  | .bcCtrSpeck64_96 | .bcCtrSpeck64_128 | .bcCtrSimon64_96 | .bcCtrSimon64_128 => some 8
  | .bcCtrSpeck128_128 | .bcCtrSpeck128_192 | .bcCtrSpeck128_256 => some 16
  | .bcCtrSimon128_128 | .bcCtrSimon128_192 | .bcCtrSimon128_256 => some 16
  | .rabbit => some 8
  | .trivium => some 10
  | .chacha20 => some 12
  | .bcEncSpeck64_96 | .bcEncSpeck64_128 | .bcEncSpeck128_128 | .bcEncSpeck128_192 | .bcEncSpeck128_256 => none
  | .bcEncSimon64_96 | .bcEncSimon64_128 | .bcEncSimon128_128 | .bcEncSimon128_192 | .bcEncSimon128_256 => none
  | .sha512 | .rng => none
  | .b2wLe32 | .b2wLe64 | .b2wBe64 | .w2bLe32 | .w2bLe64 | .w2bBe64 => none

/-- The block length LEN must equal (R310: bc.enc). -/
def requiredLength : Instr → Option Nat
  | .bcEncSpeck64_96 | .bcEncSpeck64_128 | .bcEncSimon64_96 | .bcEncSimon64_128 => some 8
  | .bcEncSpeck128_128 | .bcEncSpeck128_192 | .bcEncSpeck128_256 => some 16
  | .bcEncSimon128_128 | .bcEncSimon128_192 | .bcEncSimon128_256 => some 16
  | .bcCtrSpeck64_96 | .bcCtrSpeck64_128 | .bcCtrSpeck128_128 | .bcCtrSpeck128_192 | .bcCtrSpeck128_256 => none
  | .bcCtrSimon64_96 | .bcCtrSimon64_128 | .bcCtrSimon128_128 | .bcCtrSimon128_192 | .bcCtrSimon128_256 => none
  | .rabbit | .trivium | .chacha20 | .sha512 | .rng => none
  | .b2wLe32 | .b2wLe64 | .b2wBe64 | .w2bLe32 | .w2bLe64 | .w2bBe64 => none

/-- What LEN must be a multiple of (R310; 1 where any LEN will do). -/
def requiredMultiple : Instr → Nat
  | .rabbit => 16
  | .b2wLe32 | .w2bLe32 => 4
  | .b2wLe64 | .b2wBe64 | .w2bLe64 | .w2bBe64 => 8
  | .bcCtrSpeck64_96 | .bcCtrSpeck64_128 | .bcCtrSpeck128_128 | .bcCtrSpeck128_192 | .bcCtrSpeck128_256 => 1
  | .bcCtrSimon64_96 | .bcCtrSimon64_128 | .bcCtrSimon128_128 | .bcCtrSimon128_192 | .bcCtrSimon128_256 => 1
  | .bcEncSpeck64_96 | .bcEncSpeck64_128 | .bcEncSpeck128_128 | .bcEncSpeck128_192 | .bcEncSpeck128_256 => 1
  | .bcEncSimon64_96 | .bcEncSimon64_128 | .bcEncSimon128_128 | .bcEncSimon128_192 | .bcEncSimon128_256 => 1
  | .trivium | .chacha20 | .sha512 | .rng => 1

/-- The length of the input range (R201). -/
def inputLength (i : Instr) (s : State) : Nat := if readsInput i then s.len.toNat else 0

/-- The length of the output range (R201). -/
def outputLength (i : Instr) (s : State) : Nat := if i = .sha512 then 64 else s.len.toNat

/-- Check 2 of 60_exceptions.md R706 fails. -/
abbrev KeyLenFails (i : Instr) (s : State) : Prop :=
  (requiredKey i).isSome = true ∧ requiredKey i ≠ some (s.cfg.toNat % 64)

/-- Check 3 of R706 fails. -/
abbrev NonceLenFails (i : Instr) (s : State) : Prop :=
  (requiredNonce i).isSome = true ∧ requiredNonce i ≠ some (s.cfg.toNat / 256 % 32)

/-- Check 4 of R706 fails. -/
abbrev LengthFails (i : Instr) (s : State) : Prop :=
  ((requiredLength i).isSome = true ∧ requiredLength i ≠ some s.len.toNat)
    ∨ s.len.toNat % requiredMultiple i ≠ 0

/-- Check 5 of R706 fails: a non-empty range passes 2^32 (20_memory.md R202). -/
abbrev AddrRangeFails (i : Instr) (s : State) : Prop :=
  (0 < inputLength i s ∧ 2 ^ 32 < s.src.toNat + inputLength i s)
    ∨ (0 < outputLength i s ∧ 2 ^ 32 < s.dst.toNat + outputLength i s)

/-- The input and output ranges have an address in common. -/
def RangesIntersect (i : Instr) (s : State) : Prop :=
  ∃ a, (s.src.toNat ≤ a ∧ a < s.src.toNat + inputLength i s)
    ∧ (s.dst.toNat ≤ a ∧ a < s.dst.toNat + outputLength i s)

/-- Check 6 of R706 fails. -/
def OverlapFails (i : Instr) (s : State) : Prop :=
  RangesIntersect i s ∧ (i = .sha512 ∨ s.src ≠ s.dst)

/-- Check 7 of R706 fails. -/
abbrev EntropyFails (i : Instr) (s : State) : Prop := i = .rng ∧ s.rng.init = .fatal

/-! ### A command ready to run -/

/-- The engine right after a command other than rng was accepted (60_exceptions.md R705). -/
def freshEngine (i : Instr) : Eng :=
  { Eng.zero with phase := .run, op := i.opcode, var := i.varField }

/-- The command was accepted and no engine step of it has been taken (R705). -/
abbrev Accepted (i : Instr) (s : State) : Prop :=
  s.status.busy = true ∧ s.eng = freshEngine i ∧ checkCommand (recipeOf i) s = none

/-- Every byte of the command's two ranges answers (20_memory.md R207). -/
abbrev BusAnswers (i : Instr) (s : State) : Prop :=
  inputAnswers s 0 ((recipeOf i).inLen s.len.toNat) = true
    ∧ outputAnswers s ((recipeOf i).outLen s.len.toNat) = true

/-- The engine steps a command takes at the model's finest granularity: its initialisation, its units, its DMA writes
and completion. DESIGN CHOICE, log 3: 70_reset_and_hazards.md R830 leaves the number unspecified. -/
def engineSteps (i : Instr) (s : State) : Nat := (recipeOf i).units s.len.toNat + 2

/-- The next engine step has room for the whole command (10_state.md R140: the step granularity is any; the number
of units is the model's, log 3). -/
abbrev WholeInOneStep (i : Instr) (s : State) : Prop := engineSteps i s ≤ s.grain + 1

/-- What a command that runs to its end needs. -/
abbrev Runnable (i : Instr) (s : State) : Prop :=
  Accepted i s ∧ BusAnswers i s ∧ WholeInOneStep i s

/-- The state after a successful completion that wrote `bs` at DST (60_exceptions.md R711): DONE, KEY and eng
cleared. -/
def completedWith (bs : List Byte) (s : State) : State :=
  complete { s with mem := writeBytes s.mem s.dst bs }

/-- The bytes of the command's output range. -/
def outputBytes (i : Instr) (s : State) : List Byte :=
  readBytes s.mem s.dst 0 ((recipeOf i).outLen s.len.toNat)

/-- The bytes of the command's input range. -/
def inputBytes (i : Instr) (s : State) : List Byte :=
  readBytes s.mem s.src 0 ((recipeOf i).inLen s.len.toNat)

/-! ### What each command must write, by the spec's formulas -/

/-- Input byte `j`. -/
def inputByte (s : State) (j : Nat) : Byte := readMem s.mem (addrAt s.src j)

/-- P[j] ^ KS_(j div b)[j mod b] for j = 0 .. LEN-1, a keystream given block by block. -/
def xorStream (b : Nat) (ks : Nat → List Byte) (s : State) : List Byte :=
  (List.range s.len.toNat).map fun j => inputByte s j ^^^ (ks (j / b)).getD (j % b) 0

/-- KS_i of bc.ctr (41_ctr_driver.md R433, R434). -/
def ctrKeystream (v : Variant) (o : Operands) (i : Nat) : List Byte :=
  encryptBlock v (variantKey v o)
    (xorBytes (variantNonce v o) (beBytes (blockBytes v) (i % 2 ^ (8 * blockBytes v))))

/-- The output of bc.ctr (R435). -/
def ctrOutput (v : Variant) (s : State) : List Byte :=
  xorStream (blockBytes v) (ctrKeystream v (operandsOf s)) s

/-- The output of bc.enc (42_block_cipher.md R491). -/
def encOutput (v : Variant) (s : State) : List Byte :=
  encryptBlock v (variantKey v (operandsOf s)) (readBytes s.mem s.src 0 (blockBytes v))

/-- The work instance after IV setup and `k` further iterations (43_rabbit.md R536 to R540). -/
def rabbitAfter (o : Operands) : Nat → Rabbit
  | 0 => rabbitIvSetup (rabbitKeySetup (o.key.take 16)) (o.nonce.take 8)
  | k + 1 => rabbitIterate (rabbitAfter o k)

/-- The output of rabbit: block i after i+1 iterations (R540, R542). -/
def rabbitOutput (s : State) : List Byte :=
  xorStream 16 (fun i => rabbitExtract (rabbitAfter (operandsOf s) (i + 1)).x) s

/-- The Trivium state after warm-up and `k` steps (44_trivium.md R562 to R564). -/
def trivAfter (o : Operands) : Nat → Triv
  | 0 => trivStart (o.key.take 10) (o.nonce.take 10)
  | k + 1 => (trivStep (trivAfter o k)).2

/-- Keystream bit z_(k+1) (R565). -/
def trivKeyBit (o : Operands) (k : Nat) : Bool := (trivStep (trivAfter o k)).1

/-- The output of trivium: byte j from bits z_(8j+1) .. z_(8j+8), the first least significant (R566,
R568). -/
def triviumOutput (s : State) : List Byte :=
  (List.range s.len.toNat).map fun j =>
    BitVec.ofNat 8 (bitsNat (fun b => trivKeyBit (operandsOf s) (8 * j + b)) 8)

/-- The output of chacha20 (45_chacha20.md R592, R595 to R598). -/
def chachaOutput (s : State) : List Byte :=
  xorStream 64 (fun i => chachaBlock (chachaLoad (operandsOf s) i)) s

/-- The zero bytes of the padding: up to the next multiple of 128 that leaves room for 0x80 and the 16-byte bit
length (46_sha512.md R628). -/
def shaZeros (L : Nat) : List Byte := List.replicate (128 * ((L + 17 + 127) / 128) - (L + 17)) 0

/-- The padded message of SHA-512 (R628). -/
def shaMessage (M : List Byte) : List Byte :=
  M ++ 0x80 :: (shaZeros M.length ++ beBytes 16 (8 * M.length))

/-- The output of sha512: every 128-byte block of the padded message compressed in order, from the initial
hash value (R623, R629, R630). -/
def shaOutput (s : State) : List Byte :=
  let M := shaMessage (readBytes s.mem s.src 0 s.len.toNat)
  shaDigest ((groups 128 (M.length / 128) M).foldl shaCompress shaInit)

/-- The output of a codec command, byte by byte (40_codec.md R406): In[j], or In[8(j div 8) + 7 - (j mod 8)]
for the big-endian mode. -/
def codecOutput (m : Mode) (s : State) : List Byte :=
  (List.range s.len.toNat).map fun j =>
    match m with
    | .le32 | .le64 => inputByte s j
    | .be64 => inputByte s (8 * (j / 8) + (7 - j % 8))

/-- Output byte `j` is what it was, or what the command computes for it (60_exceptions.md R710). -/
def OldOrComputed (i : Instr) (s : State) (b : Byte) (j : Nat) : Prop :=
  b = readMem s.mem (addrAt s.dst j) ∨ b = (computedOutput (recipeOf i) s).getD j 0

/-! ### Runs -/

/-- `k` steps of the machine. -/
def runFor : Nat → State → Outcome
  | 0, s => .next s
  | k + 1, s =>
    match step s with
    | .next t => runFor k t
    | .fault r => .fault r
    | .refused r => .refused r

/-- Nothing but the engine moves any more. -/
abbrev engineOnly (s : State) : Prop := s.agenda = [] ∧ s.later = .cycle []

/-- The moves in which the entropy source answers one BYTE request with TRANSIENT and the engine takes that answer
and waits out its delay of `delay` steps, at whose end it asks again (47_rng.md R666, R667). -/
def transientRound (delay : Nat) : List Move :=
  .entropy .transient :: .engine 0 :: List.replicate delay (.engine 0)

/-- An rng command that runs and still misses bytes, with no byte from the entropy source waiting for it. -/
structure AwaitsByte (s : State) : Prop where
  busy : s.status.busy = true
  phase : s.eng.phase = .rngWait ∨ s.eng.phase = .rngDelay
  command : runs .rng s = true
  missing : s.eng.off < s.len.toNat
  noData : ∀ v, s.rng.resp ≠ some (.data v)

/-! ### The invariant -/

/-- The entropy port: a request or an unconsumed response only while an rng command waits for it, and never
both (47_rng.md R660, R661). That one of them is there throughout RNG_WAIT while bytes are missing is the model's
choice of the step that issues a request and of the held response (log 10, DESIGN CHOICE). -/
def portConsistent (s : State) : Prop :=
  match s.eng.phase with
  | .rngInit =>
    (s.rng.req = some .init ∧ s.rng.resp = none)
      ∨ (s.rng.req = none ∧ (s.rng.resp = some .present ∨ s.rng.resp = some .absent))
  | .rngWait =>
    if s.eng.off < s.len.toNat then
      (s.rng.req = some .byte ∧ s.rng.resp = none)
        ∨ (s.rng.req = none ∧ ∃ r, s.rng.resp = some r ∧ answers .byte r = true)
    else s.rng.req = none ∧ s.rng.resp = none
  | .idle | .run | .rngDelay => s.rng.req = none ∧ s.rng.resp = none

/-- The phases of the rng command. -/
def inRngPhase (s : State) : Prop :=
  s.eng.phase = .rngInit ∨ s.eng.phase = .rngWait ∨ s.eng.phase = .rngDelay

/-- What holds of the machine between any two steps. -/
structure Invariant (s : State) : Prop where
  /-- Memory keeps its canonical form. -/
  mem : s.mem.wf = true
  /-- The reserved bits of CFG read 0 (10_state.md R104, R108). -/
  cfg : s.cfg &&& ~~~cfgMask = 0
  /-- The reserved bits of IRQ_EN read 0 (R104, R109). -/
  irqEn : s.irqEn &&& ~~~irqMask = 0
  /-- BUSY is 1 exactly while a command runs (R140). -/
  busy : s.status.busy = true ↔ s.eng.phase ≠ .idle
  /-- BUSY = 1 implies DONE = 0 (R106); acceptance cleared ERR too (R705). -/
  busyOpen : s.status.busy = true → s.status.done = false ∧ s.status.err = false
  /-- ERR = 0 implies ERRCODE = 0 (R106). -/
  noErr : s.status.err = false → s.status.errcode = 0
  /-- ERRCODE is in 0x00..0x09 (60_exceptions.md R703). -/
  code : s.status.errcode.toNat ≤ 9
  /-- An idle engine holds nothing (R132), of the model's own fields either (log 20, DESIGN CHOICE). -/
  idle : s.eng.phase = .idle → s.eng = Eng.zero
  /-- A running command is a legal one that passed its checks, in a phase of its own (R130, R140). -/
  command : s.eng.phase ≠ .idle →
    ∃ i, runs i s = true ∧ (s.eng.phase = .run ↔ i ≠ .rng) ∧ checkCommand (recipeOf i) s = none
  /-- eng.off counts the output bytes completed (R130, R140), which wait in eng.out (log 4, DESIGN CHOICE). -/
  off : s.eng.phase = .run → s.eng.out.length = s.eng.off
  /-- The rng command's progress (47_rng.md R665), with what it overwrote (log 11, DEDUCED). -/
  rngOff : inRngPhase s → s.eng.under.length = s.eng.off ∧ s.eng.off ≤ s.len.toNat
  /-- RNG_INIT only before the first initialisation, the later phases only after it (47_rng.md R663). -/
  rngInit : (s.eng.phase = .rngInit → s.rng.init = .uninit)
    ∧ (s.eng.phase = .rngWait ∨ s.eng.phase = .rngDelay → s.rng.init = .ready)
  /-- The retry delay is positive and counts down (00_scope.md R7; 47_rng.md R666, R667; log 28). -/
  retry : 0 < s.platform.retryDelay ∧ (s.eng.phase = .rngDelay → 0 < s.eng.retry)
  /-- The entropy port (R660; log 10, DESIGN CHOICE). -/
  port : portConsistent s

end Sys2Proof.Machine
end

