-- ==== Sys2Proof/Certificates/Slice0/Obligations.lean ====
section
/-! DEFINITION. The statements about the machine. Each docstring names the rule of spec/ it formalises. -/

open Sys2Proof Sys2Proof.Machine

/-! ### Encoding -/

/-- 30_encoding.md R312, R320, R301: decoding the bytes of any of the 31 commands, with any bytes after them,
gives that command and the bytes after it; and a word decodes to a command only if it is that command's word,
so no other word is legal. -/
def Obligations.DecodeEncodeAgree : Prop :=
  (∀ (i : Instr) (rest : List Byte), decode (encodeBytes i ++ rest) = .ok (i, rest))
    ∧ (∀ (w : Word) (i : Instr), decodeWord w = .ok i → w = encode i)

/-- R302: the order of the decoder's checks, on the bit ranges of R301, and the command a word that passes them
gives: the one of its OP and VAR. -/
def Obligations.DecoderChecksInOrder : Prop :=
  ∀ w : Word,
    (w.toNat / 2 ^ 12 ≠ 0 → decodeWord w = .error .illegalCmd)
    ∧ (w.toNat / 2 ^ 12 = 0 → (w.toNat % 256 = 0 ∨ 10 ≤ w.toNat % 256) → decodeWord w = .error .illegalCmd)
    ∧ (w.toNat / 2 ^ 12 = 0 → 1 ≤ w.toNat % 256 → w.toNat % 256 ≤ 9 →
        (splitWord w).varLegal = false → decodeWord w = .error .illegalVariant)
    ∧ (w.toNat / 2 ^ 12 = 0 → 1 ≤ w.toNat % 256 → w.toNat % 256 ≤ 9 →
        (splitWord w).varLegal = true →
        ∃ i, decodeWord w = .ok i ∧ i.opcode.toNat = w.toNat % 256 ∧ i.varField.toNat = w.toNat / 256 % 16)

/-- R320, R306, R308: some words written out from the table decode to the commands they stand for. -/
def Obligations.TableWordsDecode : Prop :=
  decodeWord 0x00000001 = .ok .bcCtrSpeck64_96 ∧ decodeWord 0x00000901 = .ok .bcCtrSimon128_256
    ∧ decodeWord 0x00000402 = .ok .bcEncSpeck128_256 ∧ decodeWord 0x00000003 = .ok .rabbit
    ∧ decodeWord 0x00000004 = .ok .trivium ∧ decodeWord 0x00000005 = .ok .chacha20
    ∧ decodeWord 0x00000006 = .ok .sha512 ∧ decodeWord 0x00000007 = .ok .rng
    ∧ decodeWord 0x00000308 = .ok .b2wBe64 ∧ decodeWord 0x00000109 = .ok .w2bLe64

/-! ### Steps -/

/-- 10_state.md R105, R140: a step whose move is the host's write of a word to CMD, with BUSY = 0, is the
command the word's bytes decode to, on the state with that move taken; and a step whose move is the engine's,
while a command runs, is that command again, at the move's granularity. The next move is the agenda's first, and
taking it leaves the rest of the agenda (the schedule: log 1; the granularity: log 3; DESIGN CHOICE). -/
def Obligations.StepRunsDecodedCommand : Prop :=
  (∀ (s : State) (v : Word) (i : Instr),
      s.status.busy = false → nextMove s = commandMove s v →
      decode (bytesOfWord v) = .ok (i, []) → step s = exec i (takeMove s))
    ∧ (∀ (s : State) (g : Nat) (i : Instr),
      s.eng.phase ≠ .idle → nextMove s = .engine g →
      runningCommand s = some i → step s = exec i { takeMove s with grain := g })
    ∧ (∀ (s : State) (m : Move) (rest : List Move), s.agenda = m :: rest →
      nextMove s = m ∧ takeMove s = { s with agenda := rest })

/-- 30_encoding.md R304, R305, R307 to R309; 60_exceptions.md R705, R710: a word that is no command, written to
CMD with BUSY = 0, ends at once in an error completion with code 0x01, or 0x02 where only VAR is not legal;
memory, the parameter registers but KEY, OVR and rng.init are unchanged. -/
def Obligations.IllegalWordEndsInError : Prop :=
  ∀ (s : State) (v : Word) (r : Reject),
    s.status.busy = false → nextMove s = commandMove s v → decodeWord v = .error r →
    ∃ t, step s = .next t ∧ t.cmd = v
      ∧ t.status = { busy := false, done := true, err := true, ovr := s.status.ovr,
                     errcode := if r = .illegalVariant then 0x02 else 0x01 }
      ∧ t.key = zeroKey ∧ t.eng = Eng.zero ∧ t.mem = s.mem ∧ t.cfg = s.cfg ∧ t.src = s.src ∧ t.dst = s.dst
      ∧ t.len = s.len ∧ t.ctr = s.ctr ∧ t.irqEn = s.irqEn ∧ t.nonce = s.nonce ∧ t.rng.init = s.rng.init
      ∧ t.agenda = (takeMove s).agenda ∧ t.later = (takeMove s).later

/-! ### The register block -/

/-- 10_state.md R119: a register read changes nothing but the value returned, which the model keeps in rdata (log
16). -/
def Obligations.RegisterReadHasNoSideEffect : Prop :=
  ∀ (s t : State) (addr size : Nat), hostRegRead addr size s = .next t → t = { s with rdata := t.rdata }

/-- R116 and R131: no register read returns anything of KEY0..KEY7, of the engine's fields or of memory: with
these replaced by anything, every read returns the same value, and every read of KEY returns 0. -/
def Obligations.SecretsAreNotReadable : Prop :=
  (∀ (s t : State) (addr size : Nat) (key : Vector Word 8) (eng : Eng) (mem : Memory),
      hostRegRead addr size s = .next t →
      hostRegRead addr size { s with key := key, eng := eng, mem := mem }
        = .next { t with key := key, eng := eng, mem := mem })
    ∧ (∀ (s : State) (k : Nat), k < 8 →
      hostRegRead (s.platform.baseAddr + 0x40 + 4 * k) 4 s = .next { s with rdata := 0 })

/-- R104: a reserved offset reads 0, and a write to it has no effect, whatever BUSY is. -/
def Obligations.ReservedOffsetsReadZeroIgnoreWrites : Prop :=
  ∀ (s : State) (off : Nat) (v : Word), off % 4 = 0 →
    ((0x24 ≤ off ∧ off ≤ 0x3C) ∨ (0x70 ≤ off ∧ off ≤ 0xFC)) →
    hostRegRead (s.platform.baseAddr + off) 4 s = .next { s with rdata := 0 }
      ∧ hostRegWrite (s.platform.baseAddr + off) 4 v s = .next s

/-- R103: an access to the register block that is not 32 bits wide at an offset that is a multiple of 4 is
refused, for a read and for a write, whatever its width (log 12, DEDUCED). -/
def Obligations.NarrowOrMisalignedAccessRefused : Prop :=
  ∀ (s : State) (off size : Nat) (v : Word), off < 256 → 0 < size → (size ≠ 4 ∨ off % 4 ≠ 0) →
    hostRegRead (s.platform.baseAddr + off) size s = .refused .registerAccess
      ∧ hostRegWrite (s.platform.baseAddr + off) size v s = .refused .registerAccess

/-- R107: a write of v to STATUS, whatever BUSY is. -/
def Obligations.StatusWriteClearsByOnes : Prop :=
  ∀ (s : State) (v : Word),
    ∃ t, hostRegWrite (s.platform.baseAddr + 0x08) 4 v s = .next t
      ∧ t.status.done = (if v.getLsbD 1 then false else s.status.done)
      ∧ t.status.err = (if v.getLsbD 2 then false else s.status.err)
      ∧ t.status.errcode = (if v.getLsbD 2 then 0 else s.status.errcode)
      ∧ t.status.ovr = (if v.getLsbD 3 then false else s.status.ovr)
      ∧ t = { s with status := { t.status with busy := s.status.busy } }

/-- R106, R133: the STATUS word, bit by bit; EFATAL reads 1 exactly when rng.init = FATAL. -/
def Obligations.StatusWordLayout : Prop :=
  ∀ s : State,
    (statusWord s).getLsbD 0 = s.status.busy ∧ (statusWord s).getLsbD 1 = s.status.done
      ∧ (statusWord s).getLsbD 2 = s.status.err ∧ (statusWord s).getLsbD 3 = s.status.ovr
      ∧ ((statusWord s).getLsbD 4 = true ↔ s.rng.init = .fatal)
      ∧ (statusWord s).extractLsb' 5 3 = 0 ∧ (statusWord s).extractLsb' 8 8 = s.status.errcode
      ∧ (statusWord s).extractLsb' 16 16 = 0
      ∧ hostRegRead (s.platform.baseAddr + 0x08) 4 s = .next { s with rdata := statusWord s }

/-- R118: while BUSY = 1 a write to CMD, CFG, SRC, DST, LEN, CTR, KEY or NONCE changes nothing but OVR, which
becomes 1; a write to IRQ_EN takes effect; a write to ID changes nothing. -/
def Obligations.BusyWritesOnlySetOvr : Prop :=
  ∀ (s : State) (off : Nat) (v : Word), s.status.busy = true → off % 4 = 0 →
    (off = 0x04 ∨ (0x0C ≤ off ∧ off ≤ 0x1C) ∨ (0x40 ≤ off ∧ off ≤ 0x6C) →
        hostRegWrite (s.platform.baseAddr + off) 4 v s
          = .next { s with status := { s.status with ovr := true } })
    ∧ (off = 0x20 → hostRegWrite (s.platform.baseAddr + off) 4 v s = .next { s with irqEn := v &&& 7 })
    ∧ (off = 0x00 → hostRegWrite (s.platform.baseAddr + off) 4 v s = .next s)

/-- R108, R109, R111 to R117, R110: with BUSY = 0 each parameter register takes the value written, CFG and
IRQ_EN without their reserved bits; each but KEY reads back what was stored; nothing else changes. -/
def Obligations.IdleWritesStore : Prop :=
  ∀ (s : State) (v : Word), s.status.busy = false →
    hostRegWrite (s.platform.baseAddr + 0x00) 4 v s = .next s
    ∧ hostRegWrite (s.platform.baseAddr + 0x0C) 4 v s = .next { s with cfg := v &&& 0x1F3F }
    ∧ hostRegWrite (s.platform.baseAddr + 0x10) 4 v s = .next { s with src := v }
    ∧ hostRegWrite (s.platform.baseAddr + 0x14) 4 v s = .next { s with dst := v }
    ∧ hostRegWrite (s.platform.baseAddr + 0x18) 4 v s = .next { s with len := v }
    ∧ hostRegWrite (s.platform.baseAddr + 0x1C) 4 v s = .next { s with ctr := v }
    ∧ hostRegWrite (s.platform.baseAddr + 0x20) 4 v s = .next { s with irqEn := v &&& 7 }
    ∧ (∀ k : Fin 8, hostRegWrite (s.platform.baseAddr + 0x40 + 4 * k.val) 4 v s
        = .next { s with key := s.key.set k v })
    ∧ (∀ k : Fin 4, hostRegWrite (s.platform.baseAddr + 0x60 + 4 * k.val) 4 v s
        = .next { s with nonce := s.nonce.set k v })

/-- R102: what a read returns at each offset that is not reserved, KEY and STATUS apart. -/
def Obligations.ReadsReturnRegisters : Prop :=
  ∀ s : State,
    hostRegRead (s.platform.baseAddr + 0x00) 4 s = .next { s with rdata := 0x43430007 }
    ∧ hostRegRead (s.platform.baseAddr + 0x04) 4 s = .next { s with rdata := s.cmd }
    ∧ hostRegRead (s.platform.baseAddr + 0x0C) 4 s = .next { s with rdata := s.cfg }
    ∧ hostRegRead (s.platform.baseAddr + 0x10) 4 s = .next { s with rdata := s.src }
    ∧ hostRegRead (s.platform.baseAddr + 0x14) 4 s = .next { s with rdata := s.dst }
    ∧ hostRegRead (s.platform.baseAddr + 0x18) 4 s = .next { s with rdata := s.len }
    ∧ hostRegRead (s.platform.baseAddr + 0x1C) 4 s = .next { s with rdata := s.ctr }
    ∧ hostRegRead (s.platform.baseAddr + 0x20) 4 s = .next { s with rdata := s.irqEn }
    ∧ (∀ k : Fin 4, hostRegRead (s.platform.baseAddr + 0x60 + 4 * k.val) 4 s
        = .next { s with rdata := s.nonce[k] })

/-- R115: byte i of the key file is bits [8(i mod 4)+7 : 8(i mod 4)] of KEY(i div 4), and the same of the nonce
file; and those are the bytes a command's operands hold. -/
def Obligations.KeyAndNonceBytePacking : Prop :=
  ∀ s : State,
    (∀ (i : Nat) (h : i < 32), (operandsOf s).key[i]? = some ((s.key[i / 4]).extractLsb' (8 * (i % 4)) 8))
    ∧ (∀ (i : Nat) (h : i < 16),
        (operandsOf s).nonce[i]? = some ((s.nonce[i / 4]).extractLsb' (8 * (i % 4)) 8))
    ∧ (operandsOf s).key.length = 32 ∧ (operandsOf s).nonce.length = 16

/-- 60_exceptions.md R720: the interrupt line is a function of the STATUS word and of IRQ_EN, and reset deasserts
it. -/
def Obligations.InterruptIsEnabledStatus : Prop :=
  (∀ s : State,
    irq s = (((statusWord s).getLsbD 1 && s.irqEn.getLsbD 0) || ((statusWord s).getLsbD 2 && s.irqEn.getLsbD 1)
      || ((statusWord s).getLsbD 3 && s.irqEn.getLsbD 2)))
    ∧ (∀ s t : State, act .reset s = .next t → irq t = false)

/-! ### Acceptance and its errors -/

/-- 60_exceptions.md R706, R705: the checks of acceptance in their order, for each of the 31 commands, each check
on the registers as 30_encoding.md R310 and 20_memory.md R201, R202 have it; and a command that fails none of them
passes the acceptance check (what it then does: AcceptedCommandStarts, RngStartsByInitState, ForbiddenRangesRefused).
That a failing check gives its error also where a range meets the register block or a device, which 20_memory.md R203
and R208 refuse, is the model's choice: the checks come before the refusal (log 13, log 14, DESIGN CHOICE). -/
def Obligations.AcceptanceChecksInOrder : Prop :=
  ∀ (i : Instr) (s : State), s.eng.phase = .idle →
    let fails := fun (e : ErrCode) => exec i s = .next (raiseError e (openCommand (encode i) s))
    (KeyLenFails i s → fails .keyLen)
    ∧ (¬ KeyLenFails i s → NonceLenFails i s → fails .nonceLen)
    ∧ (¬ KeyLenFails i s → ¬ NonceLenFails i s → LengthFails i s → fails .length)
    ∧ (¬ KeyLenFails i s → ¬ NonceLenFails i s → ¬ LengthFails i s → AddrRangeFails i s → fails .addrRange)
    ∧ (¬ KeyLenFails i s → ¬ NonceLenFails i s → ¬ LengthFails i s → ¬ AddrRangeFails i s →
        OverlapFails i s → fails .overlap)
    ∧ (¬ KeyLenFails i s → ¬ NonceLenFails i s → ¬ LengthFails i s → ¬ AddrRangeFails i s →
        ¬ OverlapFails i s → EntropyFails i s → fails .entropyAbsent)
    ∧ (¬ KeyLenFails i s → ¬ NonceLenFails i s → ¬ LengthFails i s → ¬ AddrRangeFails i s →
        ¬ OverlapFails i s → ¬ EntropyFails i s → checkCommand (recipeOf i) s = none)

/-- R710, R121, R132, R708: the error completion of an acceptance check: DONE, ERR and ERRCODE set, BUSY clear,
KEY and eng zero, CMD the command's word; memory and every other register, OVR, the nonce, IRQ_EN and rng.init
unchanged. That this holds also where a range of the command meets the register block or a device, which 20_memory.md
R203 and R208 refuse, is the model's choice: the checks come before the refusal (log 13, log 14, DESIGN CHOICE). -/
def Obligations.AcceptanceErrorEffects : Prop :=
  ∀ (i : Instr) (s : State) (e : ErrCode), s.eng.phase = .idle → checkCommand (recipeOf i) s = some e →
    exec i s = .next
      { s with
        cmd := encode i
        status := { busy := false, done := true, err := true, ovr := s.status.ovr, errcode := errorByte e }
        key := zeroKey
        eng := Eng.zero
        rng := { s.rng with req := none, resp := none } }

/-- R705: a command other than rng that passes its checks, on a platform whose register block and devices it does
not touch, starts: BUSY set, DONE, ERR and ERRCODE clear, CMD, eng.op and eng.var latched, eng.off 0, phase RUN; no
register and no byte of memory changes besides. That every other field of eng is 0 is the model's reading (log 25,
DEDUCED): 10_state.md R132 left them 0 at the last completion, and the model takes them as 0 from any idle engine, its
own fields among them (log 20, DESIGN CHOICE). -/
def Obligations.AcceptedCommandStarts : Prop :=
  ∀ (i : Instr) (s : State), i ≠ .rng → s.eng.phase = .idle → checkCommand (recipeOf i) s = none →
    meetsRegisterBlock (recipeOf i) s = false → meetsDevice (recipeOf i) s = false →
    exec i s = .next
      { s with
        cmd := encode i
        status := { busy := true, done := false, err := false, ovr := s.status.ovr, errcode := 0 }
        eng := freshEngine i }

/-- 20_memory.md R203, R208: a command that passes its checks but whose ranges meet the register block in the DMA
space, or addresses with read side effects, is refused. That the checks come before the refusal is the model's choice
(log 13, log 14, DESIGN CHOICE). -/
def Obligations.ForbiddenRangesRefused : Prop :=
  ∀ (i : Instr) (s : State), s.eng.phase = .idle → checkCommand (recipeOf i) s = none →
    (meetsRegisterBlock (recipeOf i) s = true → exec i s = .refused .registerBlockInDma)
    ∧ (meetsRegisterBlock (recipeOf i) s = false → meetsDevice (recipeOf i) s = true →
        exec i s = .refused .sideEffectMemory)

/-! ### What each command computes -/

/-- 41_ctr_driver.md R430 to R436, R442 to R451: each of the ten bc.ctr commands, accepted and over a bus that
answers, completes with C[j] = P[j] ^ KS_(j div B)[j mod B], KS_i = E_v(K, N ^ BE_B(i)). The constructors: bcCtr
of every variant. -/
def Obligations.CtrCompletesWithXoredKeystream : Prop :=
  ∀ (v : Variant) (s : State), Runnable (ctrOf v) s →
    exec (ctrOf v) s = .next (completedWith (ctrOutput v s) s)

/-- 42_block_cipher.md R491 to R501: each of the ten bc.enc commands completes with E_v(K, X). The constructors:
bcEnc of every variant. -/
def Obligations.EncCompletesWithBlock : Prop :=
  ∀ (v : Variant) (s : State), Runnable (encOf v) s →
    exec (encOf v) s = .next (completedWith (encOutput v s) s)

/-- 43_rabbit.md R540, R542, R543: rabbit completes with the message XORed with the blocks extracted after one,
two, ... iterations beyond IV setup. -/
def Obligations.RabbitCompletesWithXoredKeystream : Prop :=
  ∀ s : State, Runnable .rabbit s → exec .rabbit s = .next (completedWith (rabbitOutput s) s)

/-- 44_trivium.md R565, R566, R568, R569: trivium completes with the keystream bytes, bit z_(8j+b+1) of weight
2^b in byte j. -/
def Obligations.TriviumCompletesWithKeystream : Prop :=
  ∀ s : State, Runnable .trivium s → exec .trivium s = .next (completedWith (triviumOutput s) s)

/-- 45_chacha20.md R592, R597, R598, R599: chacha20 completes with the message XORed with the blocks of counter
CTR + i mod 2^32. -/
def Obligations.ChachaCompletesWithXoredKeystream : Prop :=
  ∀ s : State, Runnable .chacha20 s → exec .chacha20 s = .next (completedWith (chachaOutput s) s)

/-- 46_sha512.md R628, R629, R630, R632: sha512 completes with the digest of the padded message, its 128-byte
blocks compressed in order. -/
def Obligations.Sha512CompletesWithDigest : Prop :=
  ∀ s : State, Runnable .sha512 s → exec .sha512 s = .next (completedWith (shaOutput s) s)

/-- 40_codec.md R406, R410 to R415: each of the six codec commands completes with byte j of its output In[j], or
In[8(j div 8) + 7 - (j mod 8)] in the big-endian mode. The constructors: b2wLe32, b2wLe64, b2wBe64, w2bLe32,
w2bLe64, w2bBe64. -/
def Obligations.CodecCompletesWithReorderedBytes : Prop :=
  ∀ (d : Direction) (m : Mode) (s : State), Runnable (codecOf d m) s →
    exec (codecOf d m) s = .next (completedWith (codecOutput m s) s)

/-- 47_rng.md R665, R668, R669: the response DATA(v) for the last missing byte: rng writes v at DST + eng.off and
completes. R672: with no byte missing, as with READY and LEN = 0, rng in RNG_WAIT completes with no memory access. The
response is held in the port until the engine's step takes it (log 10, DESIGN CHOICE). -/
def Obligations.RngCompletesWithLastByte : Prop :=
  ∀ s : State, s.eng.phase = .rngWait → runs .rng s = true → s.eng.spoiled = false →
    (∀ v : Byte, s.eng.off + 1 = s.len.toNat → s.rng.resp = some (.data v) →
        canWrite s (addrAt s.dst s.eng.off) = true →
        exec .rng s = .next (complete { s with mem := writeMem s.mem (addrAt s.dst s.eng.off) v }))
    ∧ (s.len.toNat ≤ s.eng.off → exec .rng s = .next (complete s))

/-! ### The rng command -/

/-- R663, 60_exceptions.md R705: an rng command that passes its checks stores its word in CMD, sets BUSY, clears
DONE, ERR and ERRCODE, leaves OVR, latches eng.op, eng.var and eng.off, has overwritten nothing yet (log 11, log
25), and enters RNG_INIT with an INIT request if rng.init = UNINIT, and RNG_WAIT if rng.init = READY. There the BYTE
request of R665, due if LEN is not 0, is issued in the step that enters RNG_WAIT: the model's choice (log 10, DESIGN
CHOICE), for the spec does not say in which step. -/
def Obligations.RngStartsByInitState : Prop :=
  ∀ s : State, s.eng.phase = .idle → checkCommand rngRecipe s = none →
    meetsRegisterBlock rngRecipe s = false → meetsDevice rngRecipe s = false →
    ∃ t, exec .rng s = .next t ∧ t.cmd = 0x00000007
      ∧ t.status = { busy := true, done := false, err := false, ovr := s.status.ovr, errcode := 0x00 }
      ∧ t.eng.op = 0x07 ∧ t.eng.var = 0 ∧ t.eng.off = 0 ∧ t.eng.under = []
      ∧ t.mem = s.mem ∧ t.rng.init = s.rng.init
      ∧ (s.rng.init = .uninit → t.eng.phase = .rngInit ∧ t.rng.req = some .init)
      ∧ (s.rng.init = .ready → t.eng.phase = .rngWait
          ∧ t.rng.req = (if 0 < s.len.toNat then some .byte else none))

/-- R664: the response to INIT, where the host wrote nothing into the range. PRESENT makes rng.init READY, and the
command completes if LEN = 0, else waits for bytes; ABSENT makes it FATAL and ends the command with ENTROPY_ABSENT, no
byte written. The BYTE request of R665 is issued in the step that enters RNG_WAIT: the model's choice (log 10, DESIGN
CHOICE), for the spec does not say in which step. So is the
response held in the port until this step takes it. -/
def Obligations.RngInitResponse : Prop :=
  ∀ s : State, s.eng.phase = .rngInit → runs .rng s = true → s.eng.spoiled = false →
    (s.rng.resp = some .present → s.len.toNat = 0 →
        exec .rng s = .next (complete { s with rng := { s.rng with init := .ready } }))
    ∧ (s.rng.resp = some .present → 0 < s.len.toNat → s.eng.off = 0 →
        ∃ t, exec .rng s = .next t ∧ t.rng.init = .ready ∧ t.eng.phase = .rngWait ∧ t.rng.req = some .byte
          ∧ t.mem = s.mem ∧ t.status = s.status)
    ∧ (s.rng.resp = some .absent →
        ∃ t, exec .rng s = .next t ∧ t.rng.init = .fatal ∧ t.mem = s.mem ∧ t.key = zeroKey ∧ t.eng = Eng.zero
          ∧ t.status = { busy := false, done := true, err := true, ovr := s.status.ovr, errcode := 0x08 })

/-- R665: the response DATA(v) with more bytes missing after it: v at DST + eng.off, eng.off one more, the next
BYTE request issued, the command still running; what the byte held before is kept for the host's reads (log 11,
DEDUCED). The held response, and that the next request is issued in the step that stores the byte, are the model's
(log 10, DESIGN CHOICE). -/
def Obligations.RngStoresByteAndAsksNext : Prop :=
  ∀ (s : State) (v : Byte), s.eng.phase = .rngWait → runs .rng s = true → s.eng.off + 1 < s.len.toNat →
    s.rng.resp = some (.data v) → canWrite s (addrAt s.dst s.eng.off) = true →
    ∃ t, exec .rng s = .next t ∧ t.mem = writeMem s.mem (addrAt s.dst s.eng.off) v
      ∧ t.eng.under = s.eng.under ++ [readMem s.mem (addrAt s.dst s.eng.off)]
      ∧ t.eng.off = s.eng.off + 1 ∧ t.eng.phase = .rngWait ∧ t.rng.req = some .byte ∧ t.rng.resp = none
      ∧ t.rng.init = s.rng.init ∧ t.status = s.status ∧ t.key = s.key

/-- R666, R667: TRANSIENT writes nothing and starts the busy-wait of RNG_RETRY_DELAY engine steps; each takes one
off; at 0 the engine waits again and asks for the same byte. The response that a step takes was held in the port,
which is the model's (log 10, DESIGN CHOICE). -/
def Obligations.RngRetriesAfterDelay : Prop :=
  (∀ s : State, s.eng.phase = .rngWait → runs .rng s = true → s.eng.off < s.len.toNat →
      s.rng.resp = some .transient →
      exec .rng s = .next { s with
        eng := { s.eng with phase := .rngDelay, retry := s.platform.retryDelay }
        rng := { s.rng with resp := none } })
    ∧ (∀ s : State, s.eng.phase = .rngDelay → runs .rng s = true → 1 < s.eng.retry →
      exec .rng s = .next { s with eng := { s.eng with retry := s.eng.retry - 1 } })
    ∧ (∀ s : State, s.eng.phase = .rngDelay → runs .rng s = true → s.eng.retry = 1 →
      s.eng.off < s.len.toNat →
      exec .rng s = .next { s with
        eng := { s.eng with phase := .rngWait, retry := 0 }
        rng := { s.rng with req := some .byte, resp := none } })

/-- R668, 20_memory.md R207: a failing write of a random byte ends the command with BUS; the bytes written before
keep their values and rng.init stays. The response is held in the port (log 10, DESIGN CHOICE), and each byte
written is in memory at once (log 11, DEDUCED). -/
def Obligations.RngBusErrorKeepsWrittenBytes : Prop :=
  ∀ (s : State) (v : Byte), s.eng.phase = .rngWait → runs .rng s = true → s.eng.spoiled = false →
    s.eng.off < s.len.toNat → s.rng.resp = some (.data v) → canWrite s (addrAt s.dst s.eng.off) = false →
    ∃ t, exec .rng s = .next t ∧ t.mem = s.mem ∧ t.rng.init = s.rng.init ∧ t.key = zeroKey ∧ t.eng = Eng.zero
      ∧ t.status = { busy := false, done := true, err := true, ovr := s.status.ovr, errcode := 0x09 }

/-- R670: while the entropy source does not answer, the engine's steps leave an rng command waiting: after any
number of them it still waits, BUSY still 1; and where it never answers, so that the engine alone moves from now on,
that is so for ever. The schedule is the model's (log 1, DESIGN CHOICE). -/
def Obligations.RngMayWaitForEver : Prop :=
  ∀ (k : Nat) (s : State), (s.agenda = List.replicate k (.engine 0) ∨ engineOnly s) → s.status.busy = true →
    s.eng.phase = .rngWait → runs .rng s = true → s.eng.off < s.len.toNat → s.rng.resp = none →
    ∃ t, runFor k s = .next t ∧ t.status.busy = true ∧ t.eng.phase = .rngWait ∧ t.mem = s.mem

/-- R670, R666, R667 (U15): an rng command whose every BYTE request is answered, always TRANSIENT, runs for ever: at
every step BUSY is 1 and nothing is written, and each round of answer and delay ends where it began, with a BYTE
request for the same byte. That the request is issued in the step that ends the delay is R667; the schedule (log 1)
and the held response (log 10) are the model's, DESIGN CHOICE. -/
def Obligations.RngRetriesForEver : Prop :=
  ∀ s : State, s.status.busy = true → s.eng.phase = .rngWait → runs .rng s = true →
    s.eng.off < s.len.toNat → s.rng.req = some .byte → s.rng.resp = none → 0 < s.platform.retryDelay →
    s.agenda = [] → s.later = .cycle (transientRound s.platform.retryDelay) →
    (∀ n, ∃ t, runFor n s = .next t ∧ t.status = s.status ∧ t.mem = s.mem ∧ t.eng.off = s.eng.off)
      ∧ (∀ n, runFor ((n + 1) * (s.platform.retryDelay + 2)) s
          = .next { s with eng := { s.eng with retry := 0 }, grain := 0 })

/-- R670, R671, R666: whatever move is made, by the host, the engine or the entropy source, an rng command that misses
bytes does not end while no DATA response comes and no reset: it still runs, with the same bytes missing. The
schedule (log 1) and the response held in the port (log 10) are the model's, DESIGN CHOICE. -/
def Obligations.RngEndsOnlyByDataOrReset : Prop :=
  ∀ s t : State, AwaitsByte s → nextMove s ≠ .reset → (∀ v, nextMove s ≠ .entropy (.data v)) →
    step s = .next t → AwaitsByte t ∧ t.eng.off = s.eng.off

/-- R665, R672: a run of rng from RNG_WAIT whose entropy source answers each request with a byte: after a
response and an engine step per byte, the bytes stand at DST in order, the command has completed without error, and
no other byte changed. The schedule (log 1) and the step in which a request is issued (log 10) are the model's, DESIGN
CHOICE. -/
def Obligations.RngWritesEntropyBytesInOrder : Prop :=
  ∀ (s : State) (vs : List Byte), vs ≠ [] → vs.length = s.len.toNat → s.mem.wf = true →
    s.dst.toNat + s.len.toNat ≤ 2 ^ 32 → outputAnswers s s.len.toNat = true →
    s.status.busy = true → s.status.err = false → s.eng.phase = .rngWait → runs .rng s = true →
    s.eng.off = 0 → s.eng.spoiled = false → s.rng.req = some .byte → s.rng.resp = none →
    s.agenda = vs.flatMap (fun v => [.entropy (.data v), .engine 0]) →
    ∃ t, runFor (2 * vs.length) s = .next t ∧ t.status.busy = false ∧ t.status.done = true
      ∧ t.status.err = false ∧ t.rng.init = s.rng.init
      ∧ readBytes t.mem s.dst 0 vs.length = vs
      ∧ ∀ a, (a < s.dst.toNat ∨ s.dst.toNat + s.len.toNat ≤ a) → readMem t.mem a = readMem s.mem a

/-- R664, R803: rng.init = FATAL lasts until reset: from a state that meets the invariant no move but reset changes
it. -/
def Obligations.FatalLastsUntilReset : Prop :=
  ∀ s t : State, Invariant s → s.rng.init = .fatal → nextMove s ≠ .reset → step s = .next t → t.rng.init = .fatal

/-- R660, R661: the entropy source's one response to the outstanding request closes the request, and it is held until
an engine step takes it; nothing else changes. A response of the wrong kind, or with no request outstanding, changes
nothing. That the response is held in rng.resp, and that these two are discarded, is the model's choice (log 10, DESIGN
CHOICE). The late response to an abandoned request changes nothing (R710). -/
def Obligations.EntropyResponseTakenOrDiscarded : Prop :=
  ∀ (s : State) (r : Response),
    (∀ q, s.rng.req = some q → answers q r = true →
        act (.entropy r) s = .next { s with rng := { s.rng with req := none, resp := some r } })
    ∧ (∀ q, s.rng.req = some q → answers q r = false → act (.entropy r) s = .next s)
    ∧ (s.rng.req = none → act (.entropy r) s = .next s)
    ∧ act (.lateEntropy r) s = .next s

/-! ### Completion, errors and frames of the running commands -/

/-- 60_exceptions.md R710, 20_memory.md R207, R708: a command other than rng, accepted, some byte of whose ranges
does not answer, ends with BUS: each byte of its output range holds its old value or the one the command computes,
every other byte of memory is unchanged. That its DMA writes wait until its end is the model's choice (log 4, DESIGN
CHOICE), and what it takes for one engine step to have room for the whole command is the model's cut of it (log 3,
DESIGN CHOICE). -/
def Obligations.BusErrorLeavesOldOrComputed : Prop :=
  ∀ (i : Instr) (s : State), i ≠ .rng → Accepted i s → ¬ BusAnswers i s → WholeInOneStep i s →
    s.mem.wf = true →
    ∃ t, exec i s = .next t ∧ t.key = zeroKey ∧ t.eng = Eng.zero ∧ t.rng.init = s.rng.init
      ∧ t.status = { busy := false, done := true, err := true, ovr := s.status.ovr, errcode := 0x09 }
      ∧ (∀ j, j < (recipeOf i).outLen s.len.toNat →
          OldOrComputed i s (readMem t.mem (addrAt s.dst j)) j)
      ∧ (∀ a, inOutput (recipeOf i) s a = false → readMem t.mem a = readMem s.mem a)

/-- 10_state.md R120, R111 to R114, R117; 20_memory.md R201: what an engine step of any of the 31 commands leaves
alone while the command runs: CMD, CFG, SRC, DST, LEN, CTR, IRQ_EN, NONCE, OVR, the platform and the schedule;
KEY but for its clearing; rng.init but for the INIT response; and every byte of memory outside the command's
output range. -/
def Obligations.EngineStepFrame : Prop :=
  ∀ (i : Instr) (s t : State), s.eng.phase ≠ .idle → exec i s = .next t →
    s.dst.toNat + (recipeOf i).outLen s.len.toNat ≤ 2 ^ 32 →
    t.cmd = s.cmd ∧ t.cfg = s.cfg ∧ t.src = s.src ∧ t.dst = s.dst ∧ t.len = s.len ∧ t.ctr = s.ctr
      ∧ t.irqEn = s.irqEn ∧ t.nonce = s.nonce ∧ t.status.ovr = s.status.ovr
      ∧ t.platform = s.platform ∧ t.agenda = s.agenda ∧ t.later = s.later ∧ t.rdata = s.rdata ∧ t.mdata = s.mdata
      ∧ (t.key = s.key ∨ t.key = zeroKey)
      ∧ (s.eng.phase ≠ .rngInit → t.rng.init = s.rng.init)
      ∧ (∀ a, inOutput (recipeOf i) s a = false → readMem t.mem a = readMem s.mem a)

/-- R705, R120: what the acceptance of any of the 31 commands leaves alone, whatever its checks say: memory, CFG,
SRC, DST, LEN, CTR, IRQ_EN, NONCE, OVR, rng.init, the platform and the schedule; KEY but for its clearing by an error
(an error that comes before a refusal of 20_memory.md R203 or R208 too: the model's choice, log 13, log 14). -/
def Obligations.AcceptanceFrame : Prop :=
  ∀ (i : Instr) (s t : State), s.eng.phase = .idle → exec i s = .next t →
    t.mem = s.mem ∧ t.cfg = s.cfg ∧ t.src = s.src ∧ t.dst = s.dst ∧ t.len = s.len ∧ t.ctr = s.ctr
      ∧ t.irqEn = s.irqEn ∧ t.nonce = s.nonce ∧ t.status.ovr = s.status.ovr ∧ t.rng.init = s.rng.init
      ∧ t.platform = s.platform ∧ t.agenda = s.agenda ∧ t.later = s.later ∧ t.grain = s.grain
      ∧ t.rdata = s.rdata ∧ t.mdata = s.mdata ∧ t.draws = s.draws
      ∧ ((t.status.busy = true ∧ t.key = s.key) ∨ (t.status.busy = false ∧ t.key = zeroKey))

/-- R140, on the model's cut of a command into units (log 3, DESIGN CHOICE): the step granularity changes nothing
but where the engine steps end: one step of `a + b + 2` units of a running command leaves what a step of `a + 1`
units and then one of `b + 1` units leave, or what the first of them leaves if it ends the command (`grain` only
names the granularity of the step taken). -/
def Obligations.GranularityIsUnobservable : Prop :=
  ∀ (i : Instr) (s : State) (a b : Nat), i ≠ .rng → s.eng.phase = .run → runs i s = true →
    ∃ t u, exec i { s with grain := a } = .next t ∧ exec i { s with grain := a + b + 1 } = .next u
      ∧ (t.eng.phase = .run → exec i { t with grain := b } = .next { u with grain := b })
      ∧ (t.eng.phase ≠ .run → u = { t with grain := a + b + 1 })

/-- 10_state.md R121, R132: the step in which BUSY goes from 1 to 0 leaves KEY0..KEY7 and every field of eng 0, the
model's own fields among them (log 20, DESIGN CHOICE). -/
def Obligations.CompletionClearsKeyAndEngine : Prop :=
  ∀ s t : State, s.status.busy = true → step s = .next t → t.status.busy = false →
    t.key = zeroKey ∧ t.eng = Eng.zero

/-- R118: every register a command reads keeps its value while BUSY stays 1, whatever move is made. -/
def Obligations.OperandsStableWhileBusy : Prop :=
  ∀ s t : State, s.status.busy = true → s.eng.phase ≠ .idle → step s = .next t → t.status.busy = true →
    t.cmd = s.cmd ∧ t.cfg = s.cfg ∧ t.src = s.src ∧ t.dst = s.dst ∧ t.len = s.len ∧ t.ctr = s.ctr
      ∧ t.nonce = s.nonce ∧ t.key = s.key

/-- 47_rng.md R671, 70_reset_and_hazards.md R820: no move of the host or of the entropy source but reset ends a
command: only the engine's own step, or reset, clears BUSY. -/
def Obligations.OnlyEngineOrResetEndsCommand : Prop :=
  ∀ s t : State, s.status.busy = true → (∀ g, nextMove s ≠ .engine g) → nextMove s ≠ .reset →
    step s = .next t → t.status.busy = true

/-- R140: only a CMD write leaves IDLE. -/
def Obligations.OnlyCmdWriteLeavesIdle : Prop :=
  ∀ s t : State, s.eng.phase = .idle → step s = .next t → t.eng.phase ≠ .idle →
    ∃ v, nextMove s = commandMove s v

/-- 70_reset_and_hazards.md R831: a command other than rng, accepted, ends after finitely many engine steps, over
any bus. That the number is engineSteps (units + 2, one unit a step) is the model's choice of how a command is cut
(log 3, DESIGN CHOICE), for R830 leaves the number unspecified; the schedule in which nothing but the engine moves
is the model's too (log 1, DESIGN CHOICE), one of those in which R831 has the engine scheduled infinitely often. -/
def Obligations.CommandsEndInBoundedSteps : Prop :=
  ∀ (i : Instr) (s : State), i ≠ .rng → Accepted i s → engineOnly s →
    ∃ t, runFor (engineSteps i s) s = .next t ∧ t.status.busy = false ∧ t.status.done = true

/-! ### Host access to a running command's buffers, reset -/

/-- 20_memory.md R223(a): a host read of byte j of the output range of a running command changes nothing but the
value returned (and the model's count of draws, log 27); which of two values it is, is a free choice (log 5). Of a
command other than rng it returns the byte's old value or the one the command computes; of rng, where byte j is
written, its value from before acceptance (kept in eng.under, log 11) or the one written, and where it is not, its
value from before acceptance, which is still in memory. -/
def Obligations.HostReadsOldOrComputed : Prop :=
  ∀ (i : Instr) (s : State) (a : Word) (maintained : Bool),
    (s.eng.phase = .run ∧ i ≠ .rng ∨ inRngPhase s ∧ i = .rng) → runs i s = true →
    s.eng.spoiled = false → hostCoherent s maintained = true → inOutput (recipeOf i) s a.toNat = true →
    ∃ t, act (.memRead a maintained) s = .next t ∧ t = { s with mdata := t.mdata, draws := s.draws + 1 }
      ∧ (i ≠ .rng → OldOrComputed i s t.mdata (a.toNat - s.dst.toNat))
      ∧ (i = .rng → a.toNat - s.dst.toNat < s.eng.under.length →
          s.eng.under[a.toNat - s.dst.toNat]? = some t.mdata ∨ t.mdata = readMem s.mem a.toNat)
      ∧ (i = .rng → s.eng.under.length ≤ a.toNat - s.dst.toNat → t.mdata = readMem s.mem a.toNat)

/-- R223(b), by the model's free bytes (log 6, log 27) and its writes at the completion (log 4), DESIGN CHOICE:
after a host write to a byte of a running command's ranges, the command's successful completion leaves every byte of
its output range a free value. -/
def Obligations.HostWriteFreesOutput : Prop :=
  (∀ (s : State) (a : Word) (b : Byte) (maintained : Bool),
      hostCoherent s maintained = true → inRunningRanges s a.toNat = true →
      act (.memWrite a b maintained) s
        = .next { s with mem := writeMem s.mem a.toNat b, eng := { s.eng with spoiled := true } })
    ∧ (∀ (i : Instr) (s : State), i ≠ .rng → s.eng.phase = .run → runs i s = true → s.eng.spoiled = true →
      s.eng.ready = true → (recipeOf i).outLen s.len.toNat ≤ s.eng.off →
      outputAnswers s ((recipeOf i).outLen s.len.toNat) = true →
      exec i s = .next (complete
        { s with
          mem := writeBytes s.mem s.dst (freeBytes s.draws ((recipeOf i).outLen s.len.toNat))
          draws := s.draws + (recipeOf i).outLen s.len.toNat }))

/-- 20_memory.md R227 (U19): where COHERENT is false, a host access to system memory without its cache duty is
refused; with the duty done, or where COHERENT is true, a read outside a running command's output range returns the
byte of memory, and a write puts the byte in memory. That this holds also at an address of the register block or of
a device is the model's choice (logs 29 and 30, DESIGN CHOICE). -/
def Obligations.HostCacheDuty : Prop :=
  ∀ (s : State) (a : Word) (b : Byte),
    (s.platform.coherent = false →
      act (.memRead a false) s = .refused .incoherentHost
        ∧ act (.memWrite a b false) s = .refused .incoherentHost)
    ∧ (∀ maintained, (s.platform.coherent = true ∨ maintained = true) →
        (inRunningRanges s a.toNat = false →
          act (.memRead a maintained) s = .next { s with mdata := readMem s.mem a.toNat }
            ∧ act (.memWrite a b maintained) s = .next { s with mem := writeMem s.mem a.toNat b }))

/-- 70_reset_and_hazards.md R800, R801, R802; 10_state.md R150: the reset move, from any state: every register,
STATUS, eng and rng.init at their reset values, no request or response left; the platform unchanged; memory
unchanged if no command runs, and otherwise unchanged outside the running command's output range. Inside it, where
the host wrote nothing into the command's ranges (else log 6): each byte holds its old value or the one the command
computes, and an rng command's bytes stand as they stood, for those it wrote are in memory and the others hold their
old values. That each byte rng wrote is in memory at once, so that memory is as it stood, is the model's reading
(log 11, DEDUCED); that the computed bytes of another command wait until its end, each landed or not by a free
choice, is its choice (log 4, log 27, DESIGN CHOICE); and so are its own fields' reset values (log 20, DESIGN
CHOICE). -/
def Obligations.ResetFromAnyState : Prop :=
  ∀ s : State, ∃ t, act .reset s = .next t
    ∧ t.cmd = 0 ∧ statusWord t = 0 ∧ t.cfg = 0 ∧ t.src = 0 ∧ t.dst = 0 ∧ t.len = 0 ∧ t.ctr = 0 ∧ t.irqEn = 0
    ∧ (∀ k : Fin 8, t.key[k] = 0) ∧ (∀ k : Fin 4, t.nonce[k] = 0) ∧ t.eng = Eng.zero ∧ t.rng.init = .uninit
    ∧ t.rng.req = none ∧ t.rng.resp = none ∧ irq t = false ∧ t.platform = s.platform
    ∧ (s.eng.phase = .idle → t.mem = s.mem)
    ∧ (∀ i, runningCommand s = some i → s.dst.toNat + (recipeOf i).outLen s.len.toNat ≤ 2 ^ 32 →
        ∀ a, inOutput (recipeOf i) s a = false → readMem t.mem a = readMem s.mem a)
    ∧ (∀ i, i ≠ .rng → runningCommand s = some i → s.eng.spoiled = false → s.mem.wf = true →
        s.dst.toNat + (recipeOf i).outLen s.len.toNat ≤ 2 ^ 32 →
        ∀ j, j < (recipeOf i).outLen s.len.toNat → OldOrComputed i s (readMem t.mem (addrAt s.dst j)) j)
    ∧ (inRngPhase s → runs .rng s = true → s.eng.spoiled = false → t.mem = s.mem)

/-- R102, R150: the state after reset; of eng, the model's own fields too (log 20, DESIGN CHOICE). -/
def Obligations.ResetState : Prop :=
  readReg .id State.reset = 0x43430007 ∧ statusWord State.reset = 0 ∧ State.reset.cmd = 0
    ∧ State.reset.cfg = 0 ∧ State.reset.src = 0 ∧ State.reset.dst = 0 ∧ State.reset.len = 0
    ∧ State.reset.ctr = 0 ∧ State.reset.irqEn = 0 ∧ (∀ k : Fin 8, State.reset.key[k] = 0)
    ∧ (∀ k : Fin 4, State.reset.nonce[k] = 0) ∧ State.reset.eng = Eng.zero ∧ State.reset.eng.phase = .idle
    ∧ State.reset.rng.init = .uninit ∧ irq State.reset = false

/-! ### Whole-machine results -/

/-- 10_state.md R131, 20_memory.md R210: a command's output is a function of its operands and its input bytes alone:
two accepted runs of the same command with the same key, nonce, CTR, LEN and input bytes write the same output
bytes, wherever their buffers lie (in place or not) and whatever else the two states hold. -/
def Obligations.OutputDependsOnOperandsAlone : Prop :=
  ∀ (i : Instr) (s₁ s₂ t₁ t₂ : State), i ≠ .rng → Runnable i s₁ → Runnable i s₂ →
    s₁.mem.wf = true → s₂.mem.wf = true →
    s₁.key = s₂.key → s₁.nonce = s₂.nonce → s₁.ctr = s₂.ctr → s₁.len = s₂.len →
    inputBytes i s₁ = inputBytes i s₂ → exec i s₁ = .next t₁ → exec i s₂ = .next t₂ →
    readBytes t₁.mem s₁.dst 0 ((recipeOf i).outLen s₁.len.toNat)
      = readBytes t₂.mem s₂.dst 0 ((recipeOf i).outLen s₂.len.toNat)

/-- 41_ctr_driver.md R439, 43_rabbit.md R543, 45_chacha20.md R599: decryption is the same command: run on its own
output with the same key, nonce and CTR, each bc.ctr command, rabbit and chacha20 restore the message. -/
def Obligations.StreamCommandsDecryptThemselves : Prop :=
  ∀ (i : Instr) (s₁ s₂ t₁ t₂ : State), (i = .rabbit ∨ i = .chacha20 ∨ ∃ v, i = ctrOf v) →
    Runnable i s₁ → Runnable i s₂ → s₁.mem.wf = true → s₂.mem.wf = true →
    s₁.key = s₂.key → s₁.nonce = s₂.nonce → s₁.ctr = s₂.ctr → s₁.len = s₂.len →
    exec i s₁ = .next t₁ → exec i s₂ = .next t₂ →
    inputBytes i s₂ = readBytes t₁.mem s₁.dst 0 s₁.len.toNat →
    readBytes t₂.mem s₂.dst 0 s₂.len.toNat = inputBytes i s₁

/-- 42_block_cipher.md R490: E_v is a permutation of B-byte blocks for each key: it has length B and is injective on
them. -/
def Obligations.BlockFunctionIsPermutation : Prop :=
  ∀ (v : Variant) (key x y : List Byte), x.length = blockBytes v → y.length = blockBytes v →
    (encryptBlock v key x).length = blockBytes v
      ∧ (encryptBlock v key x = encryptBlock v key y → x = y)

/-- 40_codec.md R404: bytes to words and back, and words to bytes and back, in both orders, for 32- and 64-bit
words. -/
def Obligations.CodecFunctionsAreInverse : Prop :=
  ∀ (n : Nat), (n = 32 ∨ n = 64) →
    (∀ (count : Nat) (bs : List Byte), bs.length = n / 8 * count →
        bytesLE (wordsLE n count bs) = bs ∧ bytesBE (wordsBE n count bs) = bs)
    ∧ (∀ ws : List (BitVec n),
        wordsLE n ws.length (bytesLE ws) = ws ∧ wordsBE n ws.length (bytesBE ws) = ws)

/-- Every step keeps the machine's invariant (Invariant names the rule of each part): the canonical form of memory,
the reserved bits, BUSY and the phase, the flags, the idle engine, the running command's checks, the entropy port.
Some parts are the model's own and no rule's: the canonical form of memory is its representation; portConsistent, by
which in RNG_WAIT with bytes missing a BYTE request or its response is always there, rests on the step in which the
model issues a request and on the held response (log 10, DESIGN CHOICE); rngOff's eng.under on log 11 (DEDUCED);
eng.out, whose length is eng.off, on log 4 (DESIGN CHOICE); the positive delay, where a State can hold 0, on log 28
(DESIGN CHOICE); and the zeros of the model's own fields of an idle engine on log 20 (DESIGN CHOICE). -/
def Obligations.StepKeepsInvariant : Prop :=
  ∀ s t : State, Invariant s → step s = .next t → Invariant t

/-- The state after reset meets the invariant. Beside the values of 10_state.md R150 this rests on values the model
chose for State.reset: memory with nothing listed (log 7), a delay of 1 (log 8), its own fields and the empty
entropy port (log 20), all DESIGN CHOICE. -/
def Obligations.ResetMeetsInvariant : Prop := Invariant State.reset

/-- 60_exceptions.md R713, R700: from a state that meets the invariant no step faults: the machine has no stop of its
own, and what it refuses is only what 10_state.md R103, 20_memory.md R203, R208 and R227 refuse. The names and the
reach of these stops are the model's: logs 12 (DEDUCED), 13, 14, 15 and 18 (DESIGN CHOICE). -/
def Obligations.NoStepFaults : Prop :=
  ∀ s : State, Invariant s →
    (∀ r, step s ≠ .fault r)
    ∧ (∀ r, step s = .refused r →
        r = .registerAccess ∨ r = .registerBlockInDma ∨ r = .sideEffectMemory ∨ r = .incoherentHost)
end

