-- ==== Sys2Proof/Laws/Memory.lean ====
section
/-! SUPPORT. Memory: a read after a write, what a write leaves alone, and the canonical form kept by every
memory operation. -/

namespace Sys2Proof.Machine

/-- A canonical memory from an address on is one from every lower address on. -/
theorem canonicalFrom_mono {lo lo' : Nat} (h : lo ≤ lo') :
    ∀ {m : Memory}, canonicalFrom lo' m = true → canonicalFrom lo m = true
  | [], _ => rfl
  | (k, v) :: rest, hm => by
    simp only [canonicalFrom, Bool.and_eq_true, decide_eq_true_eq] at hm ⊢
    exact ⟨⟨⟨by omega, hm.1.1.2⟩, hm.1.2⟩, hm.2⟩

/-- Nothing is listed below the address a canonical memory starts at. -/
theorem readMem_below {lo a : Nat} (h : a < lo) :
    ∀ {m : Memory}, canonicalFrom lo m = true → readMem m a = unlistedByte
  | [], _ => rfl
  | (k, v) :: rest, hm => by
    simp only [canonicalFrom, Bool.and_eq_true, decide_eq_true_eq] at hm
    have hk : ¬ k = a := by omega
    simp only [readMem, hk, if_false]
    exact readMem_below (by omega) hm.2

/-- A write leaves every other byte alone. -/
theorem readMem_writeMem_other {a b : Nat} (v : Byte) (h : b ≠ a) :
    ∀ m : Memory, readMem (writeMem m a v) b = readMem m b
  | [] => by
    by_cases hv : v = unlistedByte <;> simp [writeMem, readMem, hv, h.symm]
  | (k, w) :: rest => by
    unfold writeMem
    split
    · split <;> simp [readMem, h.symm]
    · split
      · next hk =>
        subst hk
        split <;> simp [readMem, h.symm]
      · simp only [readMem, readMem_writeMem_other v h rest]

/-- A read after a write to the same byte gives the byte written. -/
theorem readMem_writeMem_same {lo a : Nat} (v : Byte) :
    ∀ {m : Memory}, canonicalFrom lo m = true → readMem (writeMem m a v) a = v
  | [], _ => by
    by_cases hv : v = unlistedByte <;> simp [writeMem, readMem, hv]
  | (k, w) :: rest, hm => by
    simp only [canonicalFrom, Bool.and_eq_true, decide_eq_true_eq] at hm
    unfold writeMem
    split
    · next hlt =>
      split
      · next hv =>
        have hk : ¬ k = a := by omega
        simp only [readMem, hk, if_false, hv]
        exact readMem_below (lo := k + 1) (by omega) hm.2
      · simp [readMem]
    · split
      · next hk =>
        split
        · next hv => rw [hv, hk]; exact readMem_below (lo := k + 1) (by omega) hm.2
        · simp [readMem, hk]
      · next hne =>
        have hk : ¬ k = a := fun e => hne e.symm
        simp only [readMem, hk, if_false]
        exact readMem_writeMem_same v hm.2

/-- A write keeps the canonical form. -/
theorem canonicalFrom_writeMem {a : Nat} (v : Byte) (ha : a < 2 ^ 32) :
    ∀ {lo : Nat} {m : Memory}, lo ≤ a → canonicalFrom lo m = true →
      canonicalFrom lo (writeMem m a v) = true
  | lo, [], hlo, _ => by
    have ha' : a < 4294967296 := ha
    by_cases hv : v = unlistedByte <;> simp [writeMem, canonicalFrom, hv, hlo, ha']
  | lo, (k, w) :: rest, hlo, hm => by
    simp only [canonicalFrom, Bool.and_eq_true, decide_eq_true_eq] at hm
    unfold writeMem
    split
    · split
      · simp only [canonicalFrom, Bool.and_eq_true, decide_eq_true_eq]; exact hm
      · next hv =>
        simp only [canonicalFrom, Bool.and_eq_true, decide_eq_true_eq]
        exact ⟨⟨⟨hlo, ha⟩, hv⟩, ⟨⟨by omega, hm.1.1.2⟩, hm.1.2⟩, hm.2⟩
    · split
      · split
        · exact canonicalFrom_mono (by omega) hm.2
        · next hv =>
          simp only [canonicalFrom, Bool.and_eq_true, decide_eq_true_eq]
          exact ⟨⟨hm.1.1, hv⟩, hm.2⟩
      · simp only [canonicalFrom, Bool.and_eq_true, decide_eq_true_eq]
        exact ⟨hm.1, canonicalFrom_writeMem v ha (by omega) hm.2⟩

/-- A write keeps the canonical form of a memory. -/
theorem wf_writeMem {m : Memory} {a : Nat} (v : Byte) (ha : a < 2 ^ 32) (hm : m.wf = true) :
    Memory.wf (writeMem m a v) = true :=
  canonicalFrom_writeMem v ha (Nat.zero_le a) hm

/-- A write of bytes keeps the canonical form of a memory. -/
theorem wf_writeBytes : ∀ (bs : List Byte) {m : Memory} (base : Word), m.wf = true →
    Memory.wf (writeBytes m base bs) = true
  | [], _, _, hm => hm
  | b :: bs, _, base, hm => wf_writeBytes bs (base + 1) (wf_writeMem b base.isLt hm)

/-- The memory of the reset state has the canonical form. -/
theorem wf_reset : State.reset.mem.wf = true := rfl

theorem addrAt_lt (base : Word) (j : Nat) : addrAt base j < 2 ^ 32 := (base + BitVec.ofNat 32 j).isLt

/-- The address of byte `j` of a range that does not wrap. -/
theorem addrAt_eq {base : Word} {j : Nat} (h : base.toNat + j < 2 ^ 32) : addrAt base j = base.toNat + j := by
  simp only [addrAt, BitVec.toNat_add, BitVec.toNat_ofNat]
  omega

/-- The address of byte `j + 1` is that of byte `j` from the next base. -/
theorem addrAt_succ (base : Word) (j : Nat) : addrAt base (j + 1) = addrAt (base + 1) j := by
  have h1 : (1 : Word).toNat = 1 := rfl
  simp only [addrAt, BitVec.toNat_add, BitVec.toNat_ofNat, h1]
  omega

/-- A write of bytes leaves every byte at none of their addresses alone. -/
theorem readMem_writeBytes_other {a : Nat} : ∀ (bs : List Byte) (m : Memory) (base : Word),
    (∀ j, j < bs.length → addrAt base j ≠ a) → readMem (writeBytes m base bs) a = readMem m a
  | [], _, _, _ => rfl
  | b :: bs, m, base, h => by
    have h0 : base.toNat ≠ a := by simpa [addrAt] using h 0 (by simp)
    rw [writeBytes, readMem_writeBytes_other bs _ _ fun j hj => ?_]
    · exact readMem_writeMem_other b h0.symm m
    · rw [← addrAt_succ]
      exact h (j + 1) (by simpa using hj)

/-- A write of bytes that does not wrap gives each byte its value. -/
theorem readMem_writeBytes_same : ∀ (bs : List Byte) {m : Memory} {base : Word} {j : Nat} (hj : j < bs.length),
    m.wf = true → base.toNat + bs.length ≤ 2 ^ 32 →
    readMem (writeBytes m base bs) (addrAt base j) = bs[j]
  | b :: bs, m, base, 0, _, hm, hb => by
    have h0 : addrAt base 0 = base.toNat := by simp [addrAt]
    simp only [List.length_cons] at hb
    rw [h0, writeBytes, readMem_writeBytes_other bs]
    · exact readMem_writeMem_same b hm
    · intro j hj
      rw [← addrAt_succ, addrAt_eq (by omega)]
      omega
  | b :: bs, m, base, j + 1, hj, hm, hb => by
    simp only [List.length_cons] at hb hj
    have hj' : j < bs.length := by omega
    rw [addrAt_succ, writeBytes]
    have hbase : (base + 1).toNat = base.toNat + 1 := by
      rw [BitVec.toNat_add]
      have : (1 : Word).toNat = 1 := rfl
      omega
    exact readMem_writeBytes_same bs hj' (wf_writeMem b base.isLt hm) (by omega)

@[simp] theorem length_readBytes (m : Memory) (base : Word) (lo n : Nat) :
    (readBytes m base lo n).length = n := by simp [readBytes]

/-- Reading back the bytes just written. -/
theorem readBytes_writeBytes {m : Memory} {base : Word} {bs : List Byte} (hm : m.wf = true)
    (hb : base.toNat + bs.length ≤ 2 ^ 32) : readBytes (writeBytes m base bs) base 0 bs.length = bs := by
  apply List.ext_getElem (by simp)
  intro j h1 h2
  simp only [readBytes, List.getElem_map, List.getElem_range, Nat.zero_add]
  exact readMem_writeBytes_same bs h2 hm hb

@[simp] theorem length_freeBytes : ∀ (n k : Nat), (freeBytes k n).length = n
  | 0, _ => rfl
  | n + 1, k => by simp [freeBytes, length_freeBytes n (k + 1)]

end Sys2Proof.Machine
end

