-- ==== Sys2Proof/Laws/State.lean ====
section
/-! SUPPORT. One lemma per field per update of the state, true by unfolding the update. -/

namespace Sys2Proof.Machine

variable (s : State)

/-! ### setOvr -/

@[simp] theorem setOvr_cmd : (setOvr s).cmd = s.cmd := rfl
@[simp] theorem setOvr_status : (setOvr s).status = { s.status with ovr := true } := rfl
@[simp] theorem setOvr_cfg : (setOvr s).cfg = s.cfg := rfl
@[simp] theorem setOvr_src : (setOvr s).src = s.src := rfl
@[simp] theorem setOvr_dst : (setOvr s).dst = s.dst := rfl
@[simp] theorem setOvr_len : (setOvr s).len = s.len := rfl
@[simp] theorem setOvr_ctr : (setOvr s).ctr = s.ctr := rfl
@[simp] theorem setOvr_irqEn : (setOvr s).irqEn = s.irqEn := rfl
@[simp] theorem setOvr_key : (setOvr s).key = s.key := rfl
@[simp] theorem setOvr_nonce : (setOvr s).nonce = s.nonce := rfl
@[simp] theorem setOvr_eng : (setOvr s).eng = s.eng := rfl
@[simp] theorem setOvr_rng : (setOvr s).rng = s.rng := rfl
@[simp] theorem setOvr_mem : (setOvr s).mem = s.mem := rfl
@[simp] theorem setOvr_platform : (setOvr s).platform = s.platform := rfl
@[simp] theorem setOvr_agenda : (setOvr s).agenda = s.agenda := rfl
@[simp] theorem setOvr_later : (setOvr s).later = s.later := rfl
@[simp] theorem setOvr_grain : (setOvr s).grain = s.grain := rfl
@[simp] theorem setOvr_rdata : (setOvr s).rdata = s.rdata := rfl
@[simp] theorem setOvr_mdata : (setOvr s).mdata = s.mdata := rfl
@[simp] theorem setOvr_draws : (setOvr s).draws = s.draws := rfl

/-! ### wipe -/

@[simp] theorem wipe_cmd : (wipe s).cmd = s.cmd := rfl
@[simp] theorem wipe_status : (wipe s).status = s.status := rfl
@[simp] theorem wipe_cfg : (wipe s).cfg = s.cfg := rfl
@[simp] theorem wipe_src : (wipe s).src = s.src := rfl
@[simp] theorem wipe_dst : (wipe s).dst = s.dst := rfl
@[simp] theorem wipe_len : (wipe s).len = s.len := rfl
@[simp] theorem wipe_ctr : (wipe s).ctr = s.ctr := rfl
@[simp] theorem wipe_irqEn : (wipe s).irqEn = s.irqEn := rfl
@[simp] theorem wipe_key : (wipe s).key = zeroKey := rfl
@[simp] theorem wipe_nonce : (wipe s).nonce = s.nonce := rfl
@[simp] theorem wipe_eng : (wipe s).eng = Eng.zero := rfl
@[simp] theorem wipe_rng : (wipe s).rng = { s.rng with req := none, resp := none } := rfl
@[simp] theorem wipe_mem : (wipe s).mem = s.mem := rfl
@[simp] theorem wipe_platform : (wipe s).platform = s.platform := rfl
@[simp] theorem wipe_agenda : (wipe s).agenda = s.agenda := rfl
@[simp] theorem wipe_later : (wipe s).later = s.later := rfl
@[simp] theorem wipe_grain : (wipe s).grain = s.grain := rfl
@[simp] theorem wipe_rdata : (wipe s).rdata = s.rdata := rfl
@[simp] theorem wipe_mdata : (wipe s).mdata = s.mdata := rfl
@[simp] theorem wipe_draws : (wipe s).draws = s.draws := rfl

/-! ### raiseError -/

@[simp] theorem raiseError_cmd (c : ErrCode) : (raiseError c s).cmd = s.cmd := rfl
@[simp] theorem raiseError_status (c : ErrCode) : (raiseError c s).status = errorFlags c s.status := rfl
@[simp] theorem raiseError_cfg (c : ErrCode) : (raiseError c s).cfg = s.cfg := rfl
@[simp] theorem raiseError_src (c : ErrCode) : (raiseError c s).src = s.src := rfl
@[simp] theorem raiseError_dst (c : ErrCode) : (raiseError c s).dst = s.dst := rfl
@[simp] theorem raiseError_len (c : ErrCode) : (raiseError c s).len = s.len := rfl
@[simp] theorem raiseError_ctr (c : ErrCode) : (raiseError c s).ctr = s.ctr := rfl
@[simp] theorem raiseError_irqEn (c : ErrCode) : (raiseError c s).irqEn = s.irqEn := rfl
@[simp] theorem raiseError_key (c : ErrCode) : (raiseError c s).key = zeroKey := rfl
@[simp] theorem raiseError_nonce (c : ErrCode) : (raiseError c s).nonce = s.nonce := rfl
@[simp] theorem raiseError_eng (c : ErrCode) : (raiseError c s).eng = Eng.zero := rfl
@[simp] theorem raiseError_rng (c : ErrCode) :
    (raiseError c s).rng = { s.rng with req := none, resp := none } := rfl
@[simp] theorem raiseError_mem (c : ErrCode) : (raiseError c s).mem = s.mem := rfl
@[simp] theorem raiseError_platform (c : ErrCode) : (raiseError c s).platform = s.platform := rfl
@[simp] theorem raiseError_agenda (c : ErrCode) : (raiseError c s).agenda = s.agenda := rfl
@[simp] theorem raiseError_later (c : ErrCode) : (raiseError c s).later = s.later := rfl
@[simp] theorem raiseError_grain (c : ErrCode) : (raiseError c s).grain = s.grain := rfl
@[simp] theorem raiseError_rdata (c : ErrCode) : (raiseError c s).rdata = s.rdata := rfl
@[simp] theorem raiseError_mdata (c : ErrCode) : (raiseError c s).mdata = s.mdata := rfl
@[simp] theorem raiseError_draws (c : ErrCode) : (raiseError c s).draws = s.draws := rfl

/-! ### complete -/

@[simp] theorem complete_cmd : (complete s).cmd = s.cmd := rfl
@[simp] theorem complete_status : (complete s).status = doneFlags s.status := rfl
@[simp] theorem complete_cfg : (complete s).cfg = s.cfg := rfl
@[simp] theorem complete_src : (complete s).src = s.src := rfl
@[simp] theorem complete_dst : (complete s).dst = s.dst := rfl
@[simp] theorem complete_len : (complete s).len = s.len := rfl
@[simp] theorem complete_ctr : (complete s).ctr = s.ctr := rfl
@[simp] theorem complete_irqEn : (complete s).irqEn = s.irqEn := rfl
@[simp] theorem complete_key : (complete s).key = zeroKey := rfl
@[simp] theorem complete_nonce : (complete s).nonce = s.nonce := rfl
@[simp] theorem complete_eng : (complete s).eng = Eng.zero := rfl
@[simp] theorem complete_rng : (complete s).rng = { s.rng with req := none, resp := none } := rfl
@[simp] theorem complete_mem : (complete s).mem = s.mem := rfl
@[simp] theorem complete_platform : (complete s).platform = s.platform := rfl
@[simp] theorem complete_agenda : (complete s).agenda = s.agenda := rfl
@[simp] theorem complete_later : (complete s).later = s.later := rfl
@[simp] theorem complete_grain : (complete s).grain = s.grain := rfl
@[simp] theorem complete_rdata : (complete s).rdata = s.rdata := rfl
@[simp] theorem complete_mdata : (complete s).mdata = s.mdata := rfl
@[simp] theorem complete_draws : (complete s).draws = s.draws := rfl

/-! ### acknowledge -/

@[simp] theorem acknowledge_cmd (v : Word) : (acknowledge v s).cmd = s.cmd := rfl
@[simp] theorem acknowledge_status (v : Word) : (acknowledge v s).status = writeOneToClear v s.status := rfl
@[simp] theorem acknowledge_cfg (v : Word) : (acknowledge v s).cfg = s.cfg := rfl
@[simp] theorem acknowledge_src (v : Word) : (acknowledge v s).src = s.src := rfl
@[simp] theorem acknowledge_dst (v : Word) : (acknowledge v s).dst = s.dst := rfl
@[simp] theorem acknowledge_len (v : Word) : (acknowledge v s).len = s.len := rfl
@[simp] theorem acknowledge_ctr (v : Word) : (acknowledge v s).ctr = s.ctr := rfl
@[simp] theorem acknowledge_irqEn (v : Word) : (acknowledge v s).irqEn = s.irqEn := rfl
@[simp] theorem acknowledge_key (v : Word) : (acknowledge v s).key = s.key := rfl
@[simp] theorem acknowledge_nonce (v : Word) : (acknowledge v s).nonce = s.nonce := rfl
@[simp] theorem acknowledge_eng (v : Word) : (acknowledge v s).eng = s.eng := rfl
@[simp] theorem acknowledge_rng (v : Word) : (acknowledge v s).rng = s.rng := rfl
@[simp] theorem acknowledge_mem (v : Word) : (acknowledge v s).mem = s.mem := rfl
@[simp] theorem acknowledge_platform (v : Word) : (acknowledge v s).platform = s.platform := rfl
@[simp] theorem acknowledge_agenda (v : Word) : (acknowledge v s).agenda = s.agenda := rfl
@[simp] theorem acknowledge_later (v : Word) : (acknowledge v s).later = s.later := rfl
@[simp] theorem acknowledge_grain (v : Word) : (acknowledge v s).grain = s.grain := rfl
@[simp] theorem acknowledge_rdata (v : Word) : (acknowledge v s).rdata = s.rdata := rfl
@[simp] theorem acknowledge_mdata (v : Word) : (acknowledge v s).mdata = s.mdata := rfl
@[simp] theorem acknowledge_draws (v : Word) : (acknowledge v s).draws = s.draws := rfl

/-! ### openCommand -/

@[simp] theorem openCommand_cmd (w : Word) : (openCommand w s).cmd = w := rfl
@[simp] theorem openCommand_status (w : Word) : (openCommand w s).status = openFlags s.status := rfl
@[simp] theorem openCommand_cfg (w : Word) : (openCommand w s).cfg = s.cfg := rfl
@[simp] theorem openCommand_src (w : Word) : (openCommand w s).src = s.src := rfl
@[simp] theorem openCommand_dst (w : Word) : (openCommand w s).dst = s.dst := rfl
@[simp] theorem openCommand_len (w : Word) : (openCommand w s).len = s.len := rfl
@[simp] theorem openCommand_ctr (w : Word) : (openCommand w s).ctr = s.ctr := rfl
@[simp] theorem openCommand_irqEn (w : Word) : (openCommand w s).irqEn = s.irqEn := rfl
@[simp] theorem openCommand_key (w : Word) : (openCommand w s).key = s.key := rfl
@[simp] theorem openCommand_nonce (w : Word) : (openCommand w s).nonce = s.nonce := rfl
@[simp] theorem openCommand_eng (w : Word) : (openCommand w s).eng = s.eng := rfl
@[simp] theorem openCommand_rng (w : Word) : (openCommand w s).rng = s.rng := rfl
@[simp] theorem openCommand_mem (w : Word) : (openCommand w s).mem = s.mem := rfl
@[simp] theorem openCommand_platform (w : Word) : (openCommand w s).platform = s.platform := rfl
@[simp] theorem openCommand_agenda (w : Word) : (openCommand w s).agenda = s.agenda := rfl
@[simp] theorem openCommand_later (w : Word) : (openCommand w s).later = s.later := rfl
@[simp] theorem openCommand_grain (w : Word) : (openCommand w s).grain = s.grain := rfl
@[simp] theorem openCommand_rdata (w : Word) : (openCommand w s).rdata = s.rdata := rfl
@[simp] theorem openCommand_mdata (w : Word) : (openCommand w s).mdata = s.mdata := rfl
@[simp] theorem openCommand_draws (w : Word) : (openCommand w s).draws = s.draws := rfl

/-! ### latch -/

@[simp] theorem latch_cmd (i : Instr) : (latch i s).cmd = s.cmd := rfl
@[simp] theorem latch_status (i : Instr) : (latch i s).status = { s.status with busy := true } := rfl
@[simp] theorem latch_cfg (i : Instr) : (latch i s).cfg = s.cfg := rfl
@[simp] theorem latch_src (i : Instr) : (latch i s).src = s.src := rfl
@[simp] theorem latch_dst (i : Instr) : (latch i s).dst = s.dst := rfl
@[simp] theorem latch_len (i : Instr) : (latch i s).len = s.len := rfl
@[simp] theorem latch_ctr (i : Instr) : (latch i s).ctr = s.ctr := rfl
@[simp] theorem latch_irqEn (i : Instr) : (latch i s).irqEn = s.irqEn := rfl
@[simp] theorem latch_key (i : Instr) : (latch i s).key = s.key := rfl
@[simp] theorem latch_nonce (i : Instr) : (latch i s).nonce = s.nonce := rfl
@[simp] theorem latch_eng (i : Instr) :
    (latch i s).eng = { Eng.zero with op := i.opcode, var := i.varField } := rfl
@[simp] theorem latch_rng (i : Instr) : (latch i s).rng = s.rng := rfl
@[simp] theorem latch_mem (i : Instr) : (latch i s).mem = s.mem := rfl
@[simp] theorem latch_platform (i : Instr) : (latch i s).platform = s.platform := rfl
@[simp] theorem latch_agenda (i : Instr) : (latch i s).agenda = s.agenda := rfl
@[simp] theorem latch_later (i : Instr) : (latch i s).later = s.later := rfl
@[simp] theorem latch_grain (i : Instr) : (latch i s).grain = s.grain := rfl
@[simp] theorem latch_rdata (i : Instr) : (latch i s).rdata = s.rdata := rfl
@[simp] theorem latch_mdata (i : Instr) : (latch i s).mdata = s.mdata := rfl
@[simp] theorem latch_draws (i : Instr) : (latch i s).draws = s.draws := rfl

/-! ### enterRun -/

@[simp] theorem enterRun_cmd : (enterRun s).cmd = s.cmd := rfl
@[simp] theorem enterRun_status : (enterRun s).status = s.status := rfl
@[simp] theorem enterRun_cfg : (enterRun s).cfg = s.cfg := rfl
@[simp] theorem enterRun_src : (enterRun s).src = s.src := rfl
@[simp] theorem enterRun_dst : (enterRun s).dst = s.dst := rfl
@[simp] theorem enterRun_len : (enterRun s).len = s.len := rfl
@[simp] theorem enterRun_ctr : (enterRun s).ctr = s.ctr := rfl
@[simp] theorem enterRun_irqEn : (enterRun s).irqEn = s.irqEn := rfl
@[simp] theorem enterRun_key : (enterRun s).key = s.key := rfl
@[simp] theorem enterRun_nonce : (enterRun s).nonce = s.nonce := rfl
@[simp] theorem enterRun_eng : (enterRun s).eng = { s.eng with phase := .run } := rfl
@[simp] theorem enterRun_rng : (enterRun s).rng = s.rng := rfl
@[simp] theorem enterRun_mem : (enterRun s).mem = s.mem := rfl
@[simp] theorem enterRun_platform : (enterRun s).platform = s.platform := rfl
@[simp] theorem enterRun_agenda : (enterRun s).agenda = s.agenda := rfl
@[simp] theorem enterRun_later : (enterRun s).later = s.later := rfl
@[simp] theorem enterRun_grain : (enterRun s).grain = s.grain := rfl
@[simp] theorem enterRun_rdata : (enterRun s).rdata = s.rdata := rfl
@[simp] theorem enterRun_mdata : (enterRun s).mdata = s.mdata := rfl
@[simp] theorem enterRun_draws : (enterRun s).draws = s.draws := rfl

/-! ### resetCore -/

@[simp] theorem resetCore_cmd : (resetCore s).cmd = 0 := rfl
@[simp] theorem resetCore_status : (resetCore s).status = Status.clear := rfl
@[simp] theorem resetCore_cfg : (resetCore s).cfg = 0 := rfl
@[simp] theorem resetCore_src : (resetCore s).src = 0 := rfl
@[simp] theorem resetCore_dst : (resetCore s).dst = 0 := rfl
@[simp] theorem resetCore_len : (resetCore s).len = 0 := rfl
@[simp] theorem resetCore_ctr : (resetCore s).ctr = 0 := rfl
@[simp] theorem resetCore_irqEn : (resetCore s).irqEn = 0 := rfl
@[simp] theorem resetCore_key : (resetCore s).key = zeroKey := rfl
@[simp] theorem resetCore_nonce : (resetCore s).nonce = Vector.replicate 4 0 := rfl
@[simp] theorem resetCore_eng : (resetCore s).eng = Eng.zero := rfl
@[simp] theorem resetCore_rng : (resetCore s).rng = Rng.uninit := rfl
@[simp] theorem resetCore_mem : (resetCore s).mem = s.mem := rfl
@[simp] theorem resetCore_platform : (resetCore s).platform = s.platform := rfl
@[simp] theorem resetCore_agenda : (resetCore s).agenda = s.agenda := rfl
@[simp] theorem resetCore_later : (resetCore s).later = s.later := rfl
@[simp] theorem resetCore_grain : (resetCore s).grain = s.grain := rfl
@[simp] theorem resetCore_rdata : (resetCore s).rdata = s.rdata := rfl
@[simp] theorem resetCore_mdata : (resetCore s).mdata = s.mdata := rfl
@[simp] theorem resetCore_draws : (resetCore s).draws = s.draws := rfl

/-! ### settle -/

@[simp] theorem settle_cmd (c : Recipe) : (settle c s).cmd = s.cmd := rfl
@[simp] theorem settle_status (c : Recipe) : (settle c s).status = s.status := rfl
@[simp] theorem settle_cfg (c : Recipe) : (settle c s).cfg = s.cfg := rfl
@[simp] theorem settle_src (c : Recipe) : (settle c s).src = s.src := rfl
@[simp] theorem settle_dst (c : Recipe) : (settle c s).dst = s.dst := rfl
@[simp] theorem settle_len (c : Recipe) : (settle c s).len = s.len := rfl
@[simp] theorem settle_ctr (c : Recipe) : (settle c s).ctr = s.ctr := rfl
@[simp] theorem settle_irqEn (c : Recipe) : (settle c s).irqEn = s.irqEn := rfl
@[simp] theorem settle_key (c : Recipe) : (settle c s).key = s.key := rfl
@[simp] theorem settle_nonce (c : Recipe) : (settle c s).nonce = s.nonce := rfl
@[simp] theorem settle_eng (c : Recipe) : (settle c s).eng = s.eng := rfl
@[simp] theorem settle_rng (c : Recipe) : (settle c s).rng = s.rng := rfl
@[simp] theorem settle_mem (c : Recipe) : (settle c s).mem = settledMem c s := rfl
@[simp] theorem settle_platform (c : Recipe) : (settle c s).platform = s.platform := rfl
@[simp] theorem settle_agenda (c : Recipe) : (settle c s).agenda = s.agenda := rfl
@[simp] theorem settle_later (c : Recipe) : (settle c s).later = s.later := rfl
@[simp] theorem settle_grain (c : Recipe) : (settle c s).grain = s.grain := rfl
@[simp] theorem settle_rdata (c : Recipe) : (settle c s).rdata = s.rdata := rfl
@[simp] theorem settle_mdata (c : Recipe) : (settle c s).mdata = s.mdata := rfl
@[simp] theorem settle_draws (c : Recipe) : (settle c s).draws = s.draws + c.outLen s.len.toNat := rfl

/-! ### freeOutput -/

@[simp] theorem freeOutput_cmd (c : Recipe) : (freeOutput c s).cmd = s.cmd := rfl
@[simp] theorem freeOutput_status (c : Recipe) : (freeOutput c s).status = s.status := rfl
@[simp] theorem freeOutput_cfg (c : Recipe) : (freeOutput c s).cfg = s.cfg := rfl
@[simp] theorem freeOutput_src (c : Recipe) : (freeOutput c s).src = s.src := rfl
@[simp] theorem freeOutput_dst (c : Recipe) : (freeOutput c s).dst = s.dst := rfl
@[simp] theorem freeOutput_len (c : Recipe) : (freeOutput c s).len = s.len := rfl
@[simp] theorem freeOutput_ctr (c : Recipe) : (freeOutput c s).ctr = s.ctr := rfl
@[simp] theorem freeOutput_irqEn (c : Recipe) : (freeOutput c s).irqEn = s.irqEn := rfl
@[simp] theorem freeOutput_key (c : Recipe) : (freeOutput c s).key = s.key := rfl
@[simp] theorem freeOutput_nonce (c : Recipe) : (freeOutput c s).nonce = s.nonce := rfl
@[simp] theorem freeOutput_eng (c : Recipe) : (freeOutput c s).eng = s.eng := rfl
@[simp] theorem freeOutput_rng (c : Recipe) : (freeOutput c s).rng = s.rng := rfl
@[simp] theorem freeOutput_mem (c : Recipe) :
    (freeOutput c s).mem = writeBytes s.mem s.dst (freeBytes s.draws (c.outLen s.len.toNat)) := rfl
@[simp] theorem freeOutput_platform (c : Recipe) : (freeOutput c s).platform = s.platform := rfl
@[simp] theorem freeOutput_agenda (c : Recipe) : (freeOutput c s).agenda = s.agenda := rfl
@[simp] theorem freeOutput_later (c : Recipe) : (freeOutput c s).later = s.later := rfl
@[simp] theorem freeOutput_grain (c : Recipe) : (freeOutput c s).grain = s.grain := rfl
@[simp] theorem freeOutput_rdata (c : Recipe) : (freeOutput c s).rdata = s.rdata := rfl
@[simp] theorem freeOutput_mdata (c : Recipe) : (freeOutput c s).mdata = s.mdata := rfl
@[simp] theorem freeOutput_draws (c : Recipe) : (freeOutput c s).draws = s.draws + c.outLen s.len.toNat := rfl

/-! ### failRunning -/

@[simp] theorem failRunning_cmd (c : Recipe) (e : ErrCode) : (failRunning c e s).cmd = s.cmd := rfl
@[simp] theorem failRunning_status (c : Recipe) (e : ErrCode) :
    (failRunning c e s).status = errorFlags e s.status := rfl
@[simp] theorem failRunning_cfg (c : Recipe) (e : ErrCode) : (failRunning c e s).cfg = s.cfg := rfl
@[simp] theorem failRunning_src (c : Recipe) (e : ErrCode) : (failRunning c e s).src = s.src := rfl
@[simp] theorem failRunning_dst (c : Recipe) (e : ErrCode) : (failRunning c e s).dst = s.dst := rfl
@[simp] theorem failRunning_len (c : Recipe) (e : ErrCode) : (failRunning c e s).len = s.len := rfl
@[simp] theorem failRunning_ctr (c : Recipe) (e : ErrCode) : (failRunning c e s).ctr = s.ctr := rfl
@[simp] theorem failRunning_irqEn (c : Recipe) (e : ErrCode) : (failRunning c e s).irqEn = s.irqEn := rfl
@[simp] theorem failRunning_key (c : Recipe) (e : ErrCode) : (failRunning c e s).key = zeroKey := rfl
@[simp] theorem failRunning_nonce (c : Recipe) (e : ErrCode) : (failRunning c e s).nonce = s.nonce := rfl
@[simp] theorem failRunning_eng (c : Recipe) (e : ErrCode) : (failRunning c e s).eng = Eng.zero := rfl
@[simp] theorem failRunning_rng (c : Recipe) (e : ErrCode) :
    (failRunning c e s).rng = { s.rng with req := none, resp := none } := rfl
@[simp] theorem failRunning_mem (c : Recipe) (e : ErrCode) : (failRunning c e s).mem = settledMem c s := rfl
@[simp] theorem failRunning_platform (c : Recipe) (e : ErrCode) :
    (failRunning c e s).platform = s.platform := rfl
@[simp] theorem failRunning_agenda (c : Recipe) (e : ErrCode) : (failRunning c e s).agenda = s.agenda := rfl
@[simp] theorem failRunning_later (c : Recipe) (e : ErrCode) : (failRunning c e s).later = s.later := rfl
@[simp] theorem failRunning_grain (c : Recipe) (e : ErrCode) : (failRunning c e s).grain = s.grain := rfl
@[simp] theorem failRunning_rdata (c : Recipe) (e : ErrCode) : (failRunning c e s).rdata = s.rdata := rfl
@[simp] theorem failRunning_mdata (c : Recipe) (e : ErrCode) : (failRunning c e s).mdata = s.mdata := rfl
@[simp] theorem failRunning_draws (c : Recipe) (e : ErrCode) :
    (failRunning c e s).draws = s.draws + c.outLen s.len.toNat := rfl

/-! ### completedWith -/

@[simp] theorem completedWith_cmd (bs : List Byte) : (completedWith bs s).cmd = s.cmd := rfl
@[simp] theorem completedWith_status (bs : List Byte) :
    (completedWith bs s).status = doneFlags s.status := rfl
@[simp] theorem completedWith_cfg (bs : List Byte) : (completedWith bs s).cfg = s.cfg := rfl
@[simp] theorem completedWith_src (bs : List Byte) : (completedWith bs s).src = s.src := rfl
@[simp] theorem completedWith_dst (bs : List Byte) : (completedWith bs s).dst = s.dst := rfl
@[simp] theorem completedWith_len (bs : List Byte) : (completedWith bs s).len = s.len := rfl
@[simp] theorem completedWith_ctr (bs : List Byte) : (completedWith bs s).ctr = s.ctr := rfl
@[simp] theorem completedWith_irqEn (bs : List Byte) : (completedWith bs s).irqEn = s.irqEn := rfl
@[simp] theorem completedWith_key (bs : List Byte) : (completedWith bs s).key = zeroKey := rfl
@[simp] theorem completedWith_nonce (bs : List Byte) : (completedWith bs s).nonce = s.nonce := rfl
@[simp] theorem completedWith_eng (bs : List Byte) : (completedWith bs s).eng = Eng.zero := rfl
@[simp] theorem completedWith_rng (bs : List Byte) :
    (completedWith bs s).rng = { s.rng with req := none, resp := none } := rfl
@[simp] theorem completedWith_mem (bs : List Byte) :
    (completedWith bs s).mem = writeBytes s.mem s.dst bs := rfl
@[simp] theorem completedWith_platform (bs : List Byte) : (completedWith bs s).platform = s.platform := rfl
@[simp] theorem completedWith_agenda (bs : List Byte) : (completedWith bs s).agenda = s.agenda := rfl
@[simp] theorem completedWith_later (bs : List Byte) : (completedWith bs s).later = s.later := rfl
@[simp] theorem completedWith_grain (bs : List Byte) : (completedWith bs s).grain = s.grain := rfl
@[simp] theorem completedWith_rdata (bs : List Byte) : (completedWith bs s).rdata = s.rdata := rfl
@[simp] theorem completedWith_mdata (bs : List Byte) : (completedWith bs s).mdata = s.mdata := rfl
@[simp] theorem completedWith_draws (bs : List Byte) : (completedWith bs s).draws = s.draws := rfl

/-! ### enterWait -/

@[simp] theorem enterWait_cmd : (enterWait s).cmd = s.cmd := rfl
@[simp] theorem enterWait_status : (enterWait s).status = s.status := rfl
@[simp] theorem enterWait_cfg : (enterWait s).cfg = s.cfg := rfl
@[simp] theorem enterWait_src : (enterWait s).src = s.src := rfl
@[simp] theorem enterWait_dst : (enterWait s).dst = s.dst := rfl
@[simp] theorem enterWait_len : (enterWait s).len = s.len := rfl
@[simp] theorem enterWait_ctr : (enterWait s).ctr = s.ctr := rfl
@[simp] theorem enterWait_irqEn : (enterWait s).irqEn = s.irqEn := rfl
@[simp] theorem enterWait_key : (enterWait s).key = s.key := rfl
@[simp] theorem enterWait_nonce : (enterWait s).nonce = s.nonce := rfl
@[simp] theorem enterWait_eng : (enterWait s).eng = { s.eng with phase := .rngWait, retry := 0 } := rfl
@[simp] theorem enterWait_rng :
    (enterWait s).rng = { s.rng with req := if s.eng.off < s.len.toNat then some .byte else none, resp := none } := rfl
@[simp] theorem enterWait_mem : (enterWait s).mem = s.mem := rfl
@[simp] theorem enterWait_platform : (enterWait s).platform = s.platform := rfl
@[simp] theorem enterWait_agenda : (enterWait s).agenda = s.agenda := rfl
@[simp] theorem enterWait_later : (enterWait s).later = s.later := rfl
@[simp] theorem enterWait_grain : (enterWait s).grain = s.grain := rfl
@[simp] theorem enterWait_rdata : (enterWait s).rdata = s.rdata := rfl
@[simp] theorem enterWait_mdata : (enterWait s).mdata = s.mdata := rfl
@[simp] theorem enterWait_draws : (enterWait s).draws = s.draws := rfl

/-! ### storeRandom -/

@[simp] theorem storeRandom_cmd (v : Byte) : (storeRandom v s).cmd = s.cmd := rfl
@[simp] theorem storeRandom_status (v : Byte) : (storeRandom v s).status = s.status := rfl
@[simp] theorem storeRandom_cfg (v : Byte) : (storeRandom v s).cfg = s.cfg := rfl
@[simp] theorem storeRandom_src (v : Byte) : (storeRandom v s).src = s.src := rfl
@[simp] theorem storeRandom_dst (v : Byte) : (storeRandom v s).dst = s.dst := rfl
@[simp] theorem storeRandom_len (v : Byte) : (storeRandom v s).len = s.len := rfl
@[simp] theorem storeRandom_ctr (v : Byte) : (storeRandom v s).ctr = s.ctr := rfl
@[simp] theorem storeRandom_irqEn (v : Byte) : (storeRandom v s).irqEn = s.irqEn := rfl
@[simp] theorem storeRandom_key (v : Byte) : (storeRandom v s).key = s.key := rfl
@[simp] theorem storeRandom_nonce (v : Byte) : (storeRandom v s).nonce = s.nonce := rfl
@[simp] theorem storeRandom_eng (v : Byte) :
    (storeRandom v s).eng = { s.eng with off := s.eng.off + 1, under := s.eng.under ++ [readMem s.mem (addrAt s.dst s.eng.off)] } := rfl
@[simp] theorem storeRandom_rng (v : Byte) : (storeRandom v s).rng = { s.rng with resp := none } := rfl
@[simp] theorem storeRandom_mem (v : Byte) :
    (storeRandom v s).mem = writeMem s.mem (addrAt s.dst s.eng.off) (condition v) := rfl
@[simp] theorem storeRandom_platform (v : Byte) : (storeRandom v s).platform = s.platform := rfl
@[simp] theorem storeRandom_agenda (v : Byte) : (storeRandom v s).agenda = s.agenda := rfl
@[simp] theorem storeRandom_later (v : Byte) : (storeRandom v s).later = s.later := rfl
@[simp] theorem storeRandom_grain (v : Byte) : (storeRandom v s).grain = s.grain := rfl
@[simp] theorem storeRandom_rdata (v : Byte) : (storeRandom v s).rdata = s.rdata := rfl
@[simp] theorem storeRandom_mdata (v : Byte) : (storeRandom v s).mdata = s.mdata := rfl
@[simp] theorem storeRandom_draws (v : Byte) : (storeRandom v s).draws = s.draws := rfl

/-! ### takeMove -/

@[simp] theorem takeMove_cmd : (takeMove s).cmd = s.cmd := rfl
@[simp] theorem takeMove_status : (takeMove s).status = s.status := rfl
@[simp] theorem takeMove_cfg : (takeMove s).cfg = s.cfg := rfl
@[simp] theorem takeMove_src : (takeMove s).src = s.src := rfl
@[simp] theorem takeMove_dst : (takeMove s).dst = s.dst := rfl
@[simp] theorem takeMove_len : (takeMove s).len = s.len := rfl
@[simp] theorem takeMove_ctr : (takeMove s).ctr = s.ctr := rfl
@[simp] theorem takeMove_irqEn : (takeMove s).irqEn = s.irqEn := rfl
@[simp] theorem takeMove_key : (takeMove s).key = s.key := rfl
@[simp] theorem takeMove_nonce : (takeMove s).nonce = s.nonce := rfl
@[simp] theorem takeMove_eng : (takeMove s).eng = s.eng := rfl
@[simp] theorem takeMove_rng : (takeMove s).rng = s.rng := rfl
@[simp] theorem takeMove_mem : (takeMove s).mem = s.mem := rfl
@[simp] theorem takeMove_platform : (takeMove s).platform = s.platform := rfl
@[simp] theorem takeMove_agenda_cons {m : Move} {rest : List Move} (h : s.agenda = m :: rest) :
    (takeMove s).agenda = rest := by simp [takeMove, h]
@[simp] theorem takeMove_later_cons {m : Move} {rest : List Move} (h : s.agenda = m :: rest) :
    (takeMove s).later = s.later := by simp [takeMove, h]
@[simp] theorem takeMove_agenda_nil (h : s.agenda = []) : (takeMove s).agenda = laterAgenda s.later := by
  simp [takeMove, h]
@[simp] theorem takeMove_later_nil (h : s.agenda = []) : (takeMove s).later = laterRest s.later := by
  simp [takeMove, h]
@[simp] theorem takeMove_grain : (takeMove s).grain = s.grain := rfl
@[simp] theorem takeMove_rdata : (takeMove s).rdata = s.rdata := rfl
@[simp] theorem takeMove_mdata : (takeMove s).mdata = s.mdata := rfl
@[simp] theorem takeMove_draws : (takeMove s).draws = s.draws := rfl

/-! ### Flags -/

section
variable (f : Status) (c : ErrCode) (v : Word)

@[simp] theorem writeOneToClear_busy : (writeOneToClear v f).busy = f.busy := rfl
@[simp] theorem writeOneToClear_done : (writeOneToClear v f).done = (f.done && !v.getLsbD 1) := rfl
@[simp] theorem writeOneToClear_err : (writeOneToClear v f).err = (f.err && !v.getLsbD 2) := rfl
@[simp] theorem writeOneToClear_ovr : (writeOneToClear v f).ovr = (f.ovr && !v.getLsbD 3) := rfl
@[simp] theorem writeOneToClear_errcode : (writeOneToClear v f).errcode = (if v.getLsbD 2 then 0 else f.errcode) := rfl
@[simp] theorem openFlags_busy : (openFlags f).busy = f.busy := rfl
@[simp] theorem openFlags_done : (openFlags f).done = false := rfl
@[simp] theorem openFlags_err : (openFlags f).err = false := rfl
@[simp] theorem openFlags_ovr : (openFlags f).ovr = f.ovr := rfl
@[simp] theorem openFlags_errcode : (openFlags f).errcode = 0 := rfl
@[simp] theorem errorFlags_busy : (errorFlags c f).busy = false := rfl
@[simp] theorem errorFlags_done : (errorFlags c f).done = true := rfl
@[simp] theorem errorFlags_err : (errorFlags c f).err = true := rfl
@[simp] theorem errorFlags_ovr : (errorFlags c f).ovr = f.ovr := rfl
@[simp] theorem errorFlags_errcode : (errorFlags c f).errcode = errorByte c := rfl
@[simp] theorem doneFlags_busy : (doneFlags f).busy = false := rfl
@[simp] theorem doneFlags_done : (doneFlags f).done = true := rfl
@[simp] theorem doneFlags_err : (doneFlags f).err = f.err := rfl
@[simp] theorem doneFlags_ovr : (doneFlags f).ovr = f.ovr := rfl
@[simp] theorem doneFlags_errcode : (doneFlags f).errcode = f.errcode := rfl

end

/-! ### What the operand readers look at -/

@[simp] theorem operandsOf_openCommand (w : Word) : operandsOf (openCommand w s) = operandsOf s := rfl
@[simp] theorem operandsOf_latch (i : Instr) : operandsOf (latch i s) = operandsOf s := rfl
@[simp] theorem operandsOf_eng (e : Eng) : operandsOf { s with eng := e } = operandsOf s := rfl
@[simp] theorem chunkBytes_eng (c : Recipe) (e : Eng) (k : Nat) :
    chunkBytes c { s with eng := e } k = chunkBytes c s k := rfl
@[simp] theorem inputAnswers_eng (e : Eng) (lo hi : Nat) :
    inputAnswers { s with eng := e } lo hi = inputAnswers s lo hi := rfl
@[simp] theorem outputAnswers_eng (e : Eng) (n : Nat) :
    outputAnswers { s with eng := e } n = outputAnswers s n := rfl
@[simp] theorem checkCommand_eng (c : Recipe) (e : Eng) :
    checkCommand c { s with eng := e } = checkCommand c s := rfl
@[simp] theorem checkCommand_openCommand (c : Recipe) (w : Word) :
    checkCommand c (openCommand w s) = checkCommand c s := rfl
@[simp] theorem checkCommand_latch (c : Recipe) (i : Instr) : checkCommand c (latch i s) = checkCommand c s := rfl
@[simp] theorem checkCommand_enterRun (c : Recipe) : checkCommand c (enterRun s) = checkCommand c s := rfl
@[simp] theorem checkCommand_grain (c : Recipe) (g : Nat) :
    checkCommand c { s with grain := g } = checkCommand c s := rfl
@[simp] theorem checkCommand_takeMove (c : Recipe) : checkCommand c (takeMove s) = checkCommand c s := rfl

/-- The units of a command look at the registers and at memory, not at the engine the state holds. -/
theorem unitsFrom_eng (c : Recipe) (e' : Eng) : ∀ (k : Nat) (e : Eng),
    unitsFrom c { s with eng := e' } k e = unitsFrom c s k e
  | 0, _ => rfl
  | k + 1, _ => unitsFrom_eng c e' k _

@[simp] theorem computedOutput_eng (c : Recipe) (e : Eng) :
    computedOutput c { s with eng := e } = computedOutput c s := by
  simp only [computedOutput, operandsOf_eng, unitsFrom_eng]

end Sys2Proof.Machine
end

