-- ==== Sys2Proof/Laws/Ops.lean ====
section
/-! SUPPORT. For each shared operation one lemma that says what it can do; proofs cite these and do not unfold
the operations. -/

namespace Sys2Proof.Machine

/-! ### Commands and recipes -/

/-- Every command but rng is `perform` of its recipe. -/
theorem exec_eq_perform {i : Instr} (h : i ≠ .rng) (s : State) : exec i s = perform i (recipeOf i) s := by
  cases i <;> first | rfl | exact absurd rfl h

@[simp] theorem recipeOf_ctrOf (v : Variant) : recipeOf (ctrOf v) = ctrRecipe v := by cases v <;> rfl
@[simp] theorem recipeOf_encOf (v : Variant) : recipeOf (encOf v) = encRecipe v := by cases v <;> rfl
@[simp] theorem recipeOf_codecOf (d : Direction) (m : Mode) : recipeOf (codecOf d m) = codecRecipe d m := by
  cases d <;> cases m <;> rfl

theorem ctrOf_ne_rng (v : Variant) : ctrOf v ≠ .rng := by cases v <;> decide
theorem encOf_ne_rng (v : Variant) : encOf v ≠ .rng := by cases v <;> decide
theorem codecOf_ne_rng (d : Direction) (m : Mode) : codecOf d m ≠ .rng := by
  cases d <;> cases m <;> decide

/-- The fields of a command decode to it. -/
theorem decodeFields_fields (i : Instr) : decodeFields i.fields = .ok i := by cases i <;> rfl

/-- The engine's latched command is the one `runs` names. -/
theorem runningCommand_of_runs {i : Instr} {s : State} (hp : s.eng.phase ≠ .idle) (hr : runs i s = true) :
    runningCommand s = some i := by
  simp only [runs, Bool.and_eq_true, beq_iff_eq] at hr
  have hf : ({ rsv := 0, var := s.eng.var, op := s.eng.op } : CmdFields) = i.fields := by
    rw [hr.1, hr.2, Instr.fields]
  unfold runningCommand
  rw [hf, decodeFields_fields]
  cases h : s.eng.phase <;> first | exact absurd h hp | rfl

/-- The legal operation codes (R303): every table of commands by VAR comes from one of these. -/
theorem operation_cases {n : Nat} {f : Nat → Option Instr} (h : operation n = some f) :
    (n = 1 ∧ f = ctrCommand) ∨ (n = 2 ∧ f = encCommand) ∨ (n = 3 ∧ f = plainCommand .rabbit)
      ∨ (n = 4 ∧ f = plainCommand .trivium) ∨ (n = 5 ∧ f = plainCommand .chacha20)
      ∨ (n = 6 ∧ f = plainCommand .sha512) ∨ (n = 7 ∧ f = plainCommand .rng)
      ∨ (n = 8 ∧ f = b2wCommand) ∨ (n = 9 ∧ f = w2bCommand) := by
  unfold operation at h
  split at h <;> simp_all

/-- An idle engine runs no command. -/
theorem runningCommand_idle {s : State} (hp : s.eng.phase = .idle) : runningCommand s = none := by
  unfold runningCommand
  rw [hp]

/-! ### Acceptance -/

/-- Acceptance: the first failing check's error, a refusal the spec asks for, or the start (R705). -/
theorem accept_cases (i : Instr) (c : Recipe) (enter : State → State) (s : State) :
    (∃ e, checkCommand c s = some e ∧
        accept i c enter s = .next (raiseError e (openCommand (encode i) s)))
      ∨ (checkCommand c s = none ∧ accept i c enter s = .refused .registerBlockInDma)
      ∨ (checkCommand c s = none ∧ accept i c enter s = .refused .sideEffectMemory)
      ∨ (checkCommand c s = none ∧
        accept i c enter s = .next (enter (latch i (openCommand (encode i) s)))) := by
  unfold accept
  simp only [checkCommand_openCommand]
  cases checkCommand c s with
  | some e => exact .inl ⟨e, rfl, rfl⟩
  | none =>
    cases meetsRegisterBlock c (openCommand (encode i) s) with
    | true => exact .inr (.inl ⟨rfl, rfl⟩)
    | false =>
      cases meetsDevice c (openCommand (encode i) s) with
      | true => exact .inr (.inr (.inl ⟨rfl, rfl⟩))
      | false => exact .inr (.inr (.inr ⟨rfl, rfl⟩))

/-- What `perform` answers with a next state: an acceptance with the engine idle, or the running command carried
on. -/
theorem perform_next {i : Instr} {c : Recipe} {s t : State} (h : perform i c s = .next t) :
    (s.eng.phase = .idle ∧ accept i c enterRun s = .next t)
      ∨ (s.eng.phase = .run ∧ runs i s = true ∧ t = runSteps c (s.grain + 1) s) := by
  unfold perform at h
  split at h
  · exact .inl ⟨‹_›, h⟩
  · split at h
    · exact .inr ⟨‹_›, ‹_›, by cases h; rfl⟩
    · cases h
  all_goals cases h

theorem perform_idle {i : Instr} {c : Recipe} {s : State} (hp : s.eng.phase = .idle) :
    perform i c s = accept i c enterRun s := by simp [perform, hp]

theorem perform_run {i : Instr} {c : Recipe} {s : State} (hp : s.eng.phase = .run) (hr : runs i s = true) :
    perform i c s = .next (runSteps c (s.grain + 1) s) := by simp [perform, hp, hr]

/-- What rng answers with a next state. -/
theorem execRng_next {s t : State} (h : execRng s = .next t) :
    (s.eng.phase = .idle ∧ accept .rng rngRecipe enterRng s = .next t)
      ∨ (s.eng.phase = .rngInit ∧ runs .rng s = true ∧ t = rngInitStep s)
      ∨ (s.eng.phase = .rngWait ∧ runs .rng s = true ∧ t = rngWaitStep s)
      ∨ (s.eng.phase = .rngDelay ∧ runs .rng s = true ∧ t = rngDelayStep s) := by
  unfold execRng at h
  split at h
  · exact .inl ⟨‹_›, h⟩
  · split at h
    · exact .inr (.inl ⟨‹_›, ‹_›, by cases h; rfl⟩)
    · cases h
  · split at h
    · exact .inr (.inr (.inl ⟨‹_›, ‹_›, by cases h; rfl⟩))
    · cases h
  · split at h
    · exact .inr (.inr (.inr ⟨‹_›, ‹_›, by cases h; rfl⟩))
    · cases h
  · cases h

/-! ### The engine's step -/

/-- One unit of a running command does one of four things (R140, R207, R711). -/
theorem runStep_cases (c : Recipe) (s : State) :
    (s.eng.ready = false ∧
        runStep c s = { s with eng := { c.setup (operandsOf s) s.eng with ready := true } })
      ∨ (s.eng.ready = true ∧ s.eng.off < c.outLen s.len.toNat ∧
        inputAnswers s (c.chunk s.len.toNat s.eng.blk).1 (c.chunk s.len.toNat s.eng.blk).2 = true ∧
        runStep c s = { s with eng := c.unit (operandsOf s) s.eng (chunkBytes c s s.eng.blk) })
      ∨ (s.eng.ready = true ∧ c.outLen s.len.toNat ≤ s.eng.off ∧
        outputAnswers s (c.outLen s.len.toNat) = true ∧
        runStep c s = finish c (s.eng.out.take (c.outLen s.len.toNat)) s)
      ∨ (s.eng.ready = true ∧ runStep c s = failRunning c .bus s) := by
  unfold runStep
  dsimp only
  cases hr : s.eng.ready with
  | false => exact .inl (by simp)
  | true =>
    simp only [Bool.true_eq_false, if_false]
    by_cases ho : s.eng.off < c.outLen s.len.toNat
    · simp only [ho, if_true]
      cases hi : inputAnswers s (c.chunk s.len.toNat s.eng.blk).1 (c.chunk s.len.toNat s.eng.blk).2 with
      | true => exact .inr (.inl (by simp))
      | false => exact .inr (.inr (.inr (by simp)))
    · simp only [ho, if_false]
      cases hw : outputAnswers s (c.outLen s.len.toNat) with
      | true => exact .inr (.inr (.inl (by simp; omega)))
      | false => exact .inr (.inr (.inr (by simp)))

/-- A completion ends in one of two ways: the computed bytes, or free bytes after a spoiled run. -/
theorem finish_cases (c : Recipe) (bs : List Byte) (s : State) :
    (s.eng.spoiled = true ∧ finish c bs s = complete (freeOutput c s))
      ∨ (s.eng.spoiled = false ∧ finish c bs s = completedWith bs s) := by
  unfold finish
  cases s.eng.spoiled with
  | true => exact .inl ⟨rfl, by simp⟩
  | false => exact .inr ⟨rfl, by simp [completedWith]⟩

/-- What holds before an engine step and is kept by each unit holds after it. -/
theorem runSteps_keeps {c : Recipe} {P : State → Prop}
    (unit : ∀ s, s.eng.phase = .run → P s → P (runStep c s)) :
    ∀ (k : Nat) (s : State), P s → P (runSteps c k s)
  | 0, _, h => h
  | k + 1, s, h => by
    unfold runSteps
    split
    · exact runSteps_keeps unit k _ (unit s ‹_› h)
    all_goals exact h

/-- A step of no running command changes nothing. -/
theorem runSteps_stopped {c : Recipe} {s : State} (h : s.eng.phase ≠ .run) :
    ∀ k, runSteps c k s = s
  | 0 => rfl
  | k + 1 => by
    unfold runSteps
    split <;> simp_all

/-- One unit, then the rest. -/
theorem runSteps_succ {c : Recipe} {s : State} (h : s.eng.phase = .run) (k : Nat) :
    runSteps c (k + 1) s = runSteps c k (runStep c s) := by
  rw [runSteps]
  simp [h]

/-- A command's initialisation and units leave the latched command, the phase and the model's records of the
host's doing alone. -/
theorem recipe_frame (i : Instr) (o : Operands) (e : Eng) (p : List Byte) :
    (((recipeOf i).setup o e).phase = e.phase ∧ ((recipeOf i).setup o e).op = e.op
      ∧ ((recipeOf i).setup o e).var = e.var ∧ ((recipeOf i).setup o e).spoiled = e.spoiled
      ∧ ((recipeOf i).setup o e).under = e.under ∧ ((recipeOf i).setup o e).out = e.out
      ∧ ((recipeOf i).setup o e).off = e.off ∧ ((recipeOf i).setup o e).blk = e.blk
      ∧ ((recipeOf i).setup o e).ready = e.ready)
    ∧ (((recipeOf i).unit o e p).phase = e.phase ∧ ((recipeOf i).unit o e p).op = e.op
      ∧ ((recipeOf i).unit o e p).var = e.var ∧ ((recipeOf i).unit o e p).spoiled = e.spoiled
      ∧ ((recipeOf i).unit o e p).under = e.under ∧ ((recipeOf i).unit o e p).ready = e.ready) := by
  cases i
  case sha512 =>
    refine ⟨⟨rfl, rfl, rfl, rfl, rfl, rfl, rfl, rfl, rfl⟩, ?_⟩
    simp only [recipeOf, shaRecipe, shaUnit]
    split
    · exact ⟨rfl, rfl, rfl, rfl, rfl, rfl⟩
    · split
      · exact ⟨rfl, rfl, rfl, rfl, rfl, rfl⟩
      · split <;> exact ⟨rfl, rfl, rfl, rfl, rfl, rfl⟩
  all_goals
    simp [recipeOf, ctrRecipe, ctrSetup, ctrUnit, encRecipe, encSetup, encUnit, rabbitRecipe, rabbitSetup,
      rabbitUnit, triviumRecipe, triviumSetup, triviumUnit, chachaRecipe, chachaSetup, chachaUnit, rngRecipe,
      codecRecipe, codecSetup, codecUnit, emit]

/-- A unit counts in eng.off exactly the bytes it appends to the output. -/
theorem unit_appends (i : Instr) (o : Operands) (e : Eng) (p : List Byte) :
    ∃ bs, ((recipeOf i).unit o e p).out = e.out ++ bs ∧
      ((recipeOf i).unit o e p).off = e.off + bs.length := by
  cases i
  case sha512 =>
    simp only [recipeOf, shaRecipe, shaUnit]
    split
    · exact ⟨[], by simp⟩
    · split
      · exact ⟨[], by simp⟩
      · split
        · exact ⟨_, rfl, rfl⟩
        · exact ⟨[], by simp⟩
  case rng => exact ⟨[], by simp [recipeOf, rngRecipe]⟩
  all_goals
    simp only [recipeOf, ctrRecipe, ctrUnit, encRecipe, encUnit, rabbitRecipe, rabbitUnit, triviumRecipe,
      triviumUnit, chachaRecipe, chachaUnit, codecRecipe, codecUnit, emit]
    exact ⟨_, rfl, rfl⟩

/-! ### The step -/

/-- A step is the head move of the agenda. -/
theorem step_cons {s : State} {m : Move} {rest : List Move} (h : s.agenda = m :: rest) :
    step s = act m { s with agenda := rest } := by
  simp [step, nextMove, takeMove, h]

/-- With the agenda done, a step is the first of the later moves. -/
theorem step_nil {s : State} (h : s.agenda = []) :
    step s = act (laterMove s.later) { s with agenda := laterAgenda s.later, later := laterRest s.later } := by
  simp [step, nextMove, takeMove, h]

/-- Where only the engine moves any more, a step is its move by one unit. -/
theorem step_engineOnly {s : State} (h : engineOnly s) : step s = engineMove 0 s := by
  obtain ⟨ha, hl⟩ := h
  rw [step_nil ha, hl]
  cases s
  simp_all [laterMove, laterAgenda, laterRest, act]

/-- A round of a cycle begins: its moves are the agenda. -/
theorem step_cycle {s : State} {m : Move} {rest : List Move} (ha : s.agenda = [])
    (hl : s.later = .cycle (m :: rest)) : step s = act m { s with agenda := rest } := by
  rw [step_nil ha, hl]
  cases s
  simp_all [laterMove, laterAgenda, laterRest]

/-- The host's write to CMD with no command running. -/
theorem act_commandMove {s : State} (h : s.status.busy = false) (v : Word) :
    act (commandMove s v) s =
      match decode (bytesOfWord v) with
      | .ok (i, _) => exec i s
      | .error r => .next (rejectWord v r s) := by
  have hb : s.platform.baseAddr < s.platform.baseAddr + 4 + 4 := by omega
  cases hd : decode (bytesOfWord v) <;>
    simp [act, commandMove, hostRegWrite, touchesBlock, accessLegal, regOf, regAt, writeCmd, h, hb, hd]

end Sys2Proof.Machine
end

