-- ==== Sys2Proof/Laws/Completion.lean ====
section
/-! SUPPORT. A command run to its end: an engine step with room for the whole command computes, unit by unit,
the command's output and completes. A family only has to show how far its units get. -/

namespace Sys2Proof.Machine

/-- An engine value marked as running `i`, initialised. -/
def started (i : Instr) (e : Eng) : Eng :=
  { e with phase := .run, op := i.opcode, var := i.varField, ready := true }

/-- A command's units do not look at the latched command, the phase or the readiness. -/
theorem unit_started (i j : Instr) (o : Operands) (e : Eng) (p : List Byte) :
    (recipeOf i).unit o (started j e) p = started j ((recipeOf i).unit o e p) := by
  cases i
  case sha512 =>
    simp only [recipeOf, shaRecipe, shaUnit, started]
    split
    · rfl
    · split
      · rfl
      · split <;> rfl
  all_goals
    simp only [recipeOf, ctrRecipe, ctrUnit, encRecipe, encUnit, rabbitRecipe, rabbitUnit, triviumRecipe,
      triviumUnit, chachaRecipe, chachaUnit, rngRecipe, codecRecipe, codecUnit, emit, started]

/-- The initialisation of an accepted command, marked as done. -/
theorem setup_started (i : Instr) (o : Operands) :
    { (recipeOf i).setup o (freshEngine i) with ready := true }
      = started i ((recipeOf i).setup o Eng.zero) := by
  cases i <;>
    simp only [recipeOf, ctrRecipe, ctrSetup, encRecipe, encSetup, rabbitRecipe, rabbitSetup, triviumRecipe,
      triviumSetup, chachaRecipe, chachaSetup, shaRecipe, shaSetup, rngRecipe, codecRecipe, codecSetup,
      freshEngine, started]

/-- The engine of command `i` after its initialisation and `k` units, from the registers and memory of `s`. -/
def engineAfter (i : Instr) (s : State) (k : Nat) : Eng :=
  unitsFrom (recipeOf i) s k ((recipeOf i).setup (operandsOf s) Eng.zero)

/-- One more unit at the end. -/
theorem unitsFrom_succ (c : Recipe) (s : State) : ∀ (k : Nat) (e : Eng),
    unitsFrom c s (k + 1) e
      = c.unit (operandsOf s) (unitsFrom c s k e) (chunkBytes c s (unitsFrom c s k e).blk)
  | 0, _ => rfl
  | k + 1, e => by
    rw [unitsFrom, unitsFrom_succ c s k]
    rfl

theorem engineAfter_succ (i : Instr) (s : State) (k : Nat) :
    engineAfter i s (k + 1)
      = (recipeOf i).unit (operandsOf s) (engineAfter i s k)
          (chunkBytes (recipeOf i) s (engineAfter i s k).blk) :=
  unitsFrom_succ _ _ _ _

theorem engineAfter_out (i : Instr) (s : State) :
    (engineAfter i s ((recipeOf i).units s.len.toNat)).out = computedOutput (recipeOf i) s := rfl

/-- eng.off counts the output computed so far. -/
theorem engineAfter_length (i : Instr) (s : State) :
    ∀ k, (engineAfter i s k).out.length = (engineAfter i s k).off
  | 0 => by
    have h := (recipe_frame i (operandsOf s) Eng.zero []).1
    rw [engineAfter, unitsFrom, h.2.2.2.2.2.1, h.2.2.2.2.2.2.1]
    rfl
  | k + 1 => by
    obtain ⟨bs, hout, hoff⟩ := unit_appends i (operandsOf s) (engineAfter i s k)
      (chunkBytes (recipeOf i) s (engineAfter i s k).blk)
    rw [engineAfter_succ, hout, hoff, List.length_append, engineAfter_length i s k]

/-- No unit changes what the model records of the host's doing. -/
theorem engineAfter_spoiled (i : Instr) (s : State) : ∀ k, (engineAfter i s k).spoiled = false
  | 0 => by
    rw [engineAfter, unitsFrom, (recipe_frame i _ _ []).1.2.2.2.1]
    rfl
  | k + 1 => by
    rw [engineAfter_succ, (recipe_frame i _ _ _).2.2.2.2.1]
    exact engineAfter_spoiled i s k

/-- A run of any length splits: the engine's granularity changes nothing but where its steps end. -/
theorem runSteps_split (c : Recipe) : ∀ (a b : Nat) (s : State),
    runSteps c (a + b) s = runSteps c b (runSteps c a s)
  | 0, b, s => by simp [runSteps]
  | a + 1, b, s => by
    by_cases h : s.eng.phase = .run
    · rw [Nat.succ_add, runSteps_succ h, runSteps_succ h]
      exact runSteps_split c a b _
    · rw [runSteps_stopped h, runSteps_stopped h, runSteps_stopped h]

/-- The engine after the first `k` units, while each of them still has output to compute and its input bytes
answer. -/
theorem runSteps_units {i : Instr} {s : State} (hs : s.eng = freshEngine i) :
    ∀ (k : Nat),
      (∀ j, j < k → (engineAfter i s j).off < (recipeOf i).outLen s.len.toNat ∧
        inputAnswers s ((recipeOf i).chunk s.len.toNat (engineAfter i s j).blk).1
          ((recipeOf i).chunk s.len.toNat (engineAfter i s j).blk).2 = true) →
      runSteps (recipeOf i) (k + 1) s = { s with eng := started i (engineAfter i s k) }
  | 0, _ => by
    have hp : s.eng.phase = .run := by rw [hs]; rfl
    have hr : s.eng.ready = false := by rw [hs]; rfl
    rw [runSteps_succ hp]
    simp only [runSteps, runStep, hr, if_true]
    rw [hs, setup_started]
    rfl
  | k + 1, h => by
    rw [runSteps_split (recipeOf i) (k + 1) 1, runSteps_units hs k fun j hj => h j (by omega)]
    have hk := h k (by omega)
    have hp : ({ s with eng := started i (engineAfter i s k) } : State).eng.phase = .run := rfl
    rw [runSteps_succ hp]
    have ho : (started i (engineAfter i s k)).off < (recipeOf i).outLen s.len.toNat := hk.1
    have hi : inputAnswers s
        ((recipeOf i).chunk s.len.toNat (started i (engineAfter i s k)).blk).1
        ((recipeOf i).chunk s.len.toNat (started i (engineAfter i s k)).blk).2 = true := hk.2
    have hrd : (started i (engineAfter i s k)).ready = true := rfl
    simp only [runSteps, runStep, hrd, Bool.true_eq_false, if_false, ho, if_true, inputAnswers_eng, hi,
      operandsOf_eng, chunkBytes_eng]
    rw [unit_started, engineAfter_succ]
    rfl

/-- A command whose units reach the end of its output, over a bus that answers, completes with the output it
computes (R711). -/
theorem runSteps_complete {i : Instr} {s : State} (hs : s.eng = freshEngine i)
    (hunits : ∀ j, j < (recipeOf i).units s.len.toNat →
      (engineAfter i s j).off < (recipeOf i).outLen s.len.toNat ∧
        inputAnswers s ((recipeOf i).chunk s.len.toNat (engineAfter i s j).blk).1
          ((recipeOf i).chunk s.len.toNat (engineAfter i s j).blk).2 = true)
    (hend : (engineAfter i s ((recipeOf i).units s.len.toNat)).off = (recipeOf i).outLen s.len.toNat)
    (hbus : outputAnswers s ((recipeOf i).outLen s.len.toNat) = true)
    {g : Nat} (hg : engineSteps i s ≤ g) :
    runSteps (recipeOf i) g s = completedWith (computedOutput (recipeOf i) s) s := by
  obtain ⟨x, rfl⟩ := Nat.exists_eq_add_of_le hg
  rw [engineSteps, show (recipeOf i).units s.len.toNat + 2 + x
    = ((recipeOf i).units s.len.toNat + 1) + (x + 1) by omega, runSteps_split, runSteps_units hs _ hunits]
  generalize hk : (recipeOf i).units s.len.toNat = k at hend
  have hp : ({ s with eng := started i (engineAfter i s k) } : State).eng.phase = .run := rfl
  rw [runSteps_succ hp]
  have hstep : runStep (recipeOf i) { s with eng := started i (engineAfter i s k) }
      = completedWith (computedOutput (recipeOf i) s) s := by
    have ho : ¬ (started i (engineAfter i s k)).off < (recipeOf i).outLen s.len.toNat :=
      Nat.not_lt.mpr hend.ge
    have hrd : (started i (engineAfter i s k)).ready = true := rfl
    have hsp : (started i (engineAfter i s k)).spoiled = false := engineAfter_spoiled i s k
    have hout : (started i (engineAfter i s k)).out.take ((recipeOf i).outLen s.len.toNat)
        = computedOutput (recipeOf i) s := by
      rw [← engineAfter_out, hk]
      exact List.take_of_length_le (by rw [← hend]; exact (engineAfter_length i s k).le)
    simp only [runStep, hrd, Bool.true_eq_false, if_false, ho, outputAnswers_eng, hbus, if_true, finish, hsp,
      hout]
    rfl
  rw [hstep, runSteps_stopped]
  simp [completedWith, complete, wipe, Eng.zero]

end Sys2Proof.Machine
end

