-- ==== Sys2Proof/Laws/Frame.lean ====
section
/-! SUPPORT. What the engine's steps leave alone: the registers, the bytes outside the output range, and the
canonical form of memory. -/

namespace Sys2Proof.Machine

/-- What a command computes is a function of its registers and of memory. -/
theorem computedOutput_congr {c : Recipe} {s t : State} (hk : t.key = s.key) (hn : t.nonce = s.nonce)
    (hc : t.ctr = s.ctr) (hl : t.len = s.len) (hs : t.src = s.src) (hm : t.mem = s.mem) :
    computedOutput c t = computedOutput c s := by
  have ho : operandsOf t = operandsOf s := by simp [operandsOf, keyBytes, nonceBytes, hk, hn, hc, hl]
  have hb : ∀ k, chunkBytes c t k = chunkBytes c s k := fun k => by simp [chunkBytes, hl, hs, hm]
  have hu : ∀ (k : Nat) (e : Eng), unitsFrom c t k e = unitsFrom c s k e := by
    intro k
    induction k with
    | zero => intro e; rfl
    | succ k ih => intro e; rw [unitsFrom, unitsFrom, ho, hb, ih]
  simp only [computedOutput, ho, hl, hu]

/-- A running command's undecided bytes are a function of its registers, memory, the platform and the draw. -/
theorem oldOrComputed_congr {c : Recipe} {s t : State} (hk : t.key = s.key) (hn : t.nonce = s.nonce)
    (hc : t.ctr = s.ctr) (hl : t.len = s.len) (hs : t.src = s.src) (hd : t.dst = s.dst) (hm : t.mem = s.mem)
    (hp : t.platform = s.platform) (j k : Nat) : oldOrComputed c t j k = oldOrComputed c s j k := by
  have hcl : canLand c t j = canLand c s j := by
    simp only [canLand, inputAnswers, canRead, canWrite, hl, hs, hd, hp]
  simp only [oldOrComputed, computedOutput_congr (c := c) hk hn hc hl hs hm, hcl, hd, hm]

/-- The granularity of the step being taken has no part in a unit. -/
theorem runStep_grain (c : Recipe) (s : State) (g : Nat) :
    runStep c { s with grain := g } = { runStep c s with grain := g } := by
  have hf : failRunning c .bus { s with grain := g } = { failRunning c .bus s with grain := g } := by
    have hm : settledMem c { s with grain := g } = settledMem c s := by
      simp only [settledMem]
      split
      · rfl
      · split
        · congr 2
          funext j
          exact oldOrComputed_congr (s := s) (t := { s with grain := g }) rfl rfl rfl rfl rfl rfl rfl rfl _ _
        all_goals rfl
    simp only [failRunning, settle, hm]
    rfl
  unfold runStep
  dsimp only
  split
  · rfl
  · split
    · rw [show inputAnswers { s with grain := g } = inputAnswers s from rfl]
      split
      · rfl
      · exact hf
    · rw [show outputAnswers { s with grain := g } = outputAnswers s from rfl]
      split
      · unfold finish; dsimp only; split <;> rfl
      · exact hf

theorem runSteps_grain (c : Recipe) (g : Nat) : ∀ (k : Nat) (s : State),
    runSteps c k { s with grain := g } = { runSteps c k s with grain := g }
  | 0, _ => rfl
  | k + 1, s => by
    by_cases h : s.eng.phase = .run
    · rw [runSteps_succ h, runSteps_succ (by exact h), runStep_grain, runSteps_grain c g k]
    · rw [runSteps_stopped h, runSteps_stopped (by exact h)]

/-- A unit keeps the granularity it was given. -/
theorem runStep_grain_eq (c : Recipe) (s : State) : (runStep c s).grain = s.grain := by
  have := congrArg State.grain (runStep_grain c s s.grain)
  simpa using this

/-! ### The canonical form, kept by every memory operation -/

theorem wf_settledMem (c : Recipe) {s : State} (h : s.mem.wf = true) : (settledMem c s).wf = true := by
  unfold settledMem
  dsimp only
  split
  · exact wf_writeBytes _ _ h
  · split
    · exact wf_writeBytes _ _ h
    all_goals exact h

theorem wf_freeOutput (c : Recipe) {s : State} (h : s.mem.wf = true) : (freeOutput c s).mem.wf = true :=
  wf_writeBytes _ _ h

theorem wf_completedWith (bs : List Byte) {s : State} (h : s.mem.wf = true) :
    (completedWith bs s).mem.wf = true := wf_writeBytes _ _ h

theorem wf_storeRandom (v : Byte) {s : State} (h : s.mem.wf = true) : (storeRandom v s).mem.wf = true :=
  wf_writeMem _ (addrAt_lt _ _) h

/-! ### One unit -/

/-- What every part of an engine step leaves alone: the registers but KEY, OVR, the platform and the schedule. -/
structure SameRegisters (s t : State) : Prop where
  cmd : t.cmd = s.cmd
  cfg : t.cfg = s.cfg
  src : t.src = s.src
  dst : t.dst = s.dst
  len : t.len = s.len
  ctr : t.ctr = s.ctr
  irqEn : t.irqEn = s.irqEn
  nonce : t.nonce = s.nonce
  ovr : t.status.ovr = s.status.ovr
  platform : t.platform = s.platform
  agenda : t.agenda = s.agenda
  later : t.later = s.later
  grain : t.grain = s.grain
  rdata : t.rdata = s.rdata
  mdata : t.mdata = s.mdata

theorem SameRegisters.refl (s : State) : SameRegisters s s :=
  ⟨rfl, rfl, rfl, rfl, rfl, rfl, rfl, rfl, rfl, rfl, rfl, rfl, rfl, rfl, rfl⟩

theorem SameRegisters.trans {s t u : State} (h : SameRegisters s t) (k : SameRegisters t u) :
    SameRegisters s u :=
  ⟨k.cmd.trans h.cmd, k.cfg.trans h.cfg, k.src.trans h.src, k.dst.trans h.dst, k.len.trans h.len,
    k.ctr.trans h.ctr, k.irqEn.trans h.irqEn, k.nonce.trans h.nonce, k.ovr.trans h.ovr,
    k.platform.trans h.platform, k.agenda.trans h.agenda, k.later.trans h.later, k.grain.trans h.grain,
    k.rdata.trans h.rdata, k.mdata.trans h.mdata⟩

/-- A command has ended: KEY and eng cleared, BUSY clear, DONE set, no entropy request left; rng.init stays. -/
structure Ended (s t : State) : Prop where
  key : t.key = zeroKey
  eng : t.eng = Eng.zero
  busy : t.status.busy = false
  done : t.status.done = true
  rng : t.rng = { s.rng with req := none, resp := none }

/-- A command goes on: only the engine's working fields moved. -/
structure GoesOn (s t : State) : Prop where
  key : t.key = s.key
  status : t.status = s.status
  rng : t.rng = s.rng
  mem : t.mem = s.mem
  draws : t.draws = s.draws
  phase : t.eng.phase = s.eng.phase
  op : t.eng.op = s.eng.op
  var : t.eng.var = s.eng.var
  spoiled : t.eng.spoiled = s.eng.spoiled
  under : t.eng.under = s.eng.under
  out : s.eng.out.length = s.eng.off → t.eng.out.length = t.eng.off

theorem GoesOn.refl (s : State) : GoesOn s s :=
  ⟨rfl, rfl, rfl, rfl, rfl, rfl, rfl, rfl, rfl, rfl, id⟩

/-- Everything one unit of a command can do. -/
theorem runStep_effect (i : Instr) (s : State) :
    SameRegisters s (runStep (recipeOf i) s) ∧
      (GoesOn s (runStep (recipeOf i) s) ∨ Ended s (runStep (recipeOf i) s)) := by
  rcases runStep_cases (recipeOf i) s with ⟨-, h⟩ | ⟨-, -, -, h⟩ | ⟨-, -, -, h⟩ | ⟨-, h⟩
  · have hf := (recipe_frame i (operandsOf s) s.eng []).1
    rw [h]
    refine ⟨by constructor <;> rfl, .inl ⟨rfl, rfl, rfl, rfl, rfl, hf.1, hf.2.1, hf.2.2.1, hf.2.2.2.1,
      hf.2.2.2.2.1, fun ho => ?_⟩⟩
    simpa [hf.2.2.2.2.2.1, hf.2.2.2.2.2.2.1] using ho
  · have hf := (recipe_frame i (operandsOf s) s.eng (chunkBytes (recipeOf i) s s.eng.blk)).2
    obtain ⟨bs, hout, hoff⟩ := unit_appends i (operandsOf s) s.eng (chunkBytes (recipeOf i) s s.eng.blk)
    rw [h]
    refine ⟨by constructor <;> rfl, .inl ⟨rfl, rfl, rfl, rfl, rfl, hf.1, hf.2.1, hf.2.2.1, hf.2.2.2.1,
      hf.2.2.2.2.1, fun ho => ?_⟩⟩
    simp [hout, hoff, ho]
  · rw [h]
    rcases finish_cases (recipeOf i) (s.eng.out.take ((recipeOf i).outLen s.len.toNat)) s with ⟨-, h⟩ | ⟨-, h⟩ <;>
      rw [h] <;> exact ⟨by constructor <;> rfl, .inr ⟨rfl, rfl, rfl, rfl, rfl⟩⟩
  · rw [h]
    exact ⟨by constructor <;> rfl, .inr ⟨rfl, rfl, rfl, rfl, rfl⟩⟩

/-- Everything an engine step through a command can do. -/
theorem runSteps_effect (i : Instr) : ∀ (k : Nat) (s : State), s.eng.phase = .run →
    SameRegisters s (runSteps (recipeOf i) k s) ∧
      (GoesOn s (runSteps (recipeOf i) k s) ∨ Ended s (runSteps (recipeOf i) k s))
  | 0, s, _ => ⟨SameRegisters.refl s, .inl (GoesOn.refl s)⟩
  | k + 1, s, h => by
    rw [runSteps_succ h]
    obtain ⟨hr, hg | he⟩ := runStep_effect i s
    · obtain ⟨hr', h'⟩ := runSteps_effect i k _ (hg.phase.trans h)
      refine ⟨hr.trans hr', ?_⟩
      rcases h' with h' | h'
      · exact .inl ⟨h'.key.trans hg.key, h'.status.trans hg.status, h'.rng.trans hg.rng, h'.mem.trans hg.mem,
          h'.draws.trans hg.draws, h'.phase.trans hg.phase, h'.op.trans hg.op, h'.var.trans hg.var,
          h'.spoiled.trans hg.spoiled, h'.under.trans hg.under, fun ho => h'.out (hg.out ho)⟩
      · exact .inr ⟨h'.key, h'.eng, h'.busy, h'.done, h'.rng.trans (by rw [hg.rng])⟩
    · rw [runSteps_stopped (by rw [he.eng]; decide)]
      exact ⟨hr, .inr he⟩

/-- A unit keeps the canonical form of memory. -/
theorem wf_runStep (c : Recipe) {s : State} (h : s.mem.wf = true) : (runStep c s).mem.wf = true := by
  rcases runStep_cases c s with ⟨-, e⟩ | ⟨-, -, -, e⟩ | ⟨-, -, -, e⟩ | ⟨-, e⟩ <;> rw [e]
  · exact h
  · exact h
  · rcases finish_cases c (s.eng.out.take (c.outLen s.len.toNat)) s with ⟨-, e⟩ | ⟨-, e⟩ <;> rw [e]
    · exact wf_freeOutput c h
    · exact wf_completedWith _ h
  · exact wf_settledMem c h

theorem wf_runSteps (c : Recipe) (k : Nat) {s : State} (h : s.mem.wf = true) :
    (runSteps c k s).mem.wf = true :=
  runSteps_keeps (P := fun t => t.mem.wf = true) (fun _ _ ht => wf_runStep c ht) k s h

/-! ### Acceptance and its checks -/

theorem needsEntropy_iff (i : Instr) : (recipeOf i).needsEntropy = decide (i = .rng) := by cases i <;> rfl

/-- The checks look at CFG, SRC, DST, LEN and, for rng, at whether rng.init is FATAL. -/
theorem checkCommand_congr {c : Recipe} {s t : State} (hcfg : t.cfg = s.cfg) (hsrc : t.src = s.src)
    (hdst : t.dst = s.dst) (hlen : t.len = s.len)
    (hrng : c.needsEntropy = false ∨ (t.rng.init = .fatal ↔ s.rng.init = .fatal)) :
    checkCommand c t = checkCommand c s := by
  have hn : (c.needsEntropy && t.rng.init == .fatal) = (c.needsEntropy && s.rng.init == .fatal) := by
    rcases hrng with h | h
    · simp [h]
    · revert h
      cases t.rng.init <;> cases s.rng.init <;> simp <;> rfl
  obtain ⟨_, _, _, _, _, _, _, _, _, _, _, _, _, _, _, _, _, _, _⟩ := t
  dsimp only at hcfg hsrc hdst hlen hn
  subst hcfg hsrc hdst hlen
  unfold checkCommand
  dsimp only [klen, nlen]
  rw [hn]
  rfl

/-- A state whose legal command passed its checks does not hold a failed entropy source. -/
theorem not_fatal_of_check {s : State} (h : checkCommand rngRecipe s = none) : s.rng.init ≠ .fatal := by
  intro hf
  have hn : (rngRecipe.needsEntropy && s.rng.init == .fatal) = true := by
    rw [hf]
    decide
  simp only [checkCommand, hn, if_true] at h
  repeat' split at h
  all_goals cases h

end Sys2Proof.Machine
end

