-- ==== Sys2Proof/Laws/PerInstr.lean ====
section
/-! SUPPORT. Per instruction: its fields are legal and its word decodes to it (30_encoding.md R302, R312, R320).
One lemma per constructor. -/

namespace Sys2Proof.Laws.RoundTrip

/-- The command's fields pass the checks of R302, and its word and its bytes decode to it. -/
def Statement (i : Instr) : Prop :=
  i.fields.wf = true ∧ decodeWord (encode i) = .ok i ∧ decode (encodeBytes i) = .ok (i, [])

theorem bcCtrSpeck64_96 : Statement .bcCtrSpeck64_96 := ⟨rfl, rfl, rfl⟩
theorem bcCtrSpeck64_128 : Statement .bcCtrSpeck64_128 := ⟨rfl, rfl, rfl⟩
theorem bcCtrSpeck128_128 : Statement .bcCtrSpeck128_128 := ⟨rfl, rfl, rfl⟩
theorem bcCtrSpeck128_192 : Statement .bcCtrSpeck128_192 := ⟨rfl, rfl, rfl⟩
theorem bcCtrSpeck128_256 : Statement .bcCtrSpeck128_256 := ⟨rfl, rfl, rfl⟩
theorem bcCtrSimon64_96 : Statement .bcCtrSimon64_96 := ⟨rfl, rfl, rfl⟩
theorem bcCtrSimon64_128 : Statement .bcCtrSimon64_128 := ⟨rfl, rfl, rfl⟩
theorem bcCtrSimon128_128 : Statement .bcCtrSimon128_128 := ⟨rfl, rfl, rfl⟩
theorem bcCtrSimon128_192 : Statement .bcCtrSimon128_192 := ⟨rfl, rfl, rfl⟩
theorem bcCtrSimon128_256 : Statement .bcCtrSimon128_256 := ⟨rfl, rfl, rfl⟩
theorem bcEncSpeck64_96 : Statement .bcEncSpeck64_96 := ⟨rfl, rfl, rfl⟩
theorem bcEncSpeck64_128 : Statement .bcEncSpeck64_128 := ⟨rfl, rfl, rfl⟩
theorem bcEncSpeck128_128 : Statement .bcEncSpeck128_128 := ⟨rfl, rfl, rfl⟩
theorem bcEncSpeck128_192 : Statement .bcEncSpeck128_192 := ⟨rfl, rfl, rfl⟩
theorem bcEncSpeck128_256 : Statement .bcEncSpeck128_256 := ⟨rfl, rfl, rfl⟩
theorem bcEncSimon64_96 : Statement .bcEncSimon64_96 := ⟨rfl, rfl, rfl⟩
theorem bcEncSimon64_128 : Statement .bcEncSimon64_128 := ⟨rfl, rfl, rfl⟩
theorem bcEncSimon128_128 : Statement .bcEncSimon128_128 := ⟨rfl, rfl, rfl⟩
theorem bcEncSimon128_192 : Statement .bcEncSimon128_192 := ⟨rfl, rfl, rfl⟩
theorem bcEncSimon128_256 : Statement .bcEncSimon128_256 := ⟨rfl, rfl, rfl⟩
theorem rabbit : Statement .rabbit := ⟨rfl, rfl, rfl⟩
theorem trivium : Statement .trivium := ⟨rfl, rfl, rfl⟩
theorem chacha20 : Statement .chacha20 := ⟨rfl, rfl, rfl⟩
theorem sha512 : Statement .sha512 := ⟨rfl, rfl, rfl⟩
theorem rng : Statement .rng := ⟨rfl, rfl, rfl⟩
theorem b2wLe32 : Statement .b2wLe32 := ⟨rfl, rfl, rfl⟩
theorem b2wLe64 : Statement .b2wLe64 := ⟨rfl, rfl, rfl⟩
theorem b2wBe64 : Statement .b2wBe64 := ⟨rfl, rfl, rfl⟩
theorem w2bLe32 : Statement .w2bLe32 := ⟨rfl, rfl, rfl⟩
theorem w2bLe64 : Statement .w2bLe64 := ⟨rfl, rfl, rfl⟩
theorem w2bBe64 : Statement .w2bBe64 := ⟨rfl, rfl, rfl⟩

end Sys2Proof.Laws.RoundTrip
end

