-- ==== Sys2Proof/Tests/Slice0.lean ====
section
/-! SUPPORT. Tests: the checks of WellFormed, the decoding of words written out from 30_encoding.md, one engine step of
each command on a vector of 95_test_vectors.md or of the command's own rule, and for each statement with hypotheses a
witness that meets them. -/

namespace Sys2Proof.Tests

set_option Elab.async false

open Sys2Proof.Machine

/-! ### Helpers -/

/-- Register word `k` of a register file whose bytes are `bs` (10_state.md R115). -/
def fileWord (bs : List Byte) (k : Nat) : Word := BitVec.ofNat 32 (leNat ((bs.drop (4 * k)).take 4))

/-- The bytes a, a+1, ... -/
def upFrom (a n : Nat) : List Byte := (List.range n).map fun j => BitVec.ofNat 8 (a + j)

/-- An idle machine whose registers and input bytes the host has written; CFG declares the lengths given. -/
def idleWith (key nonce : List Byte) (src dst len ctr : Word) (data : List Byte) : State :=
  { State.reset with
    cfg := BitVec.ofNat 32 (key.length + 256 * nonce.length), src := src, dst := dst, len := len, ctr := ctr
    key := #v[fileWord key 0, fileWord key 1, fileWord key 2, fileWord key 3, fileWord key 4, fileWord key 5,
              fileWord key 6, fileWord key 7]
    nonce := #v[fileWord nonce 0, fileWord nonce 1, fileWord nonce 2, fileWord nonce 3]
    mem := writeBytes [] src data, grain := 99 }

/-- The same machine right after it accepted the command. -/
def running (i : Instr) (s : State) : State :=
  { s with
    cmd := encode i, status := { busy := true, done := false, err := false, ovr := false, errcode := 0 }
    eng := freshEngine i }

/-- A step that answers a next state with DONE, no error, BUSY clear, and these bytes at DST. -/
def completes (o : Outcome) (dst : Word) (bs : List Byte) : Bool :=
  match o with
  | .next t => t.status == doneFlags Status.clear && readBytes t.mem dst 0 bs.length == bs
  | .fault _ | .refused _ => false

/-- The next state of a step, for a step that has one. -/
def after (o : Outcome) : State :=
  match o with
  | .next t => t
  | .fault _ | .refused _ => State.reset

/-! ### WellFormed: an ill-formed term for each check -/

theorem test_wf_legal : ({ rsv := 0, var := 9, op := 2 } : CmdFields).wf = true := by decide
theorem test_wf_refuses_reserved_field : ({ rsv := 1, var := 0, op := 3 } : CmdFields).wf = false := by decide
theorem test_wf_refuses_reserved_top_bit : ({ rsv := 0x80000, var := 0, op := 5 } : CmdFields).wf = false := by
  decide
theorem test_wf_refuses_operation_zero : ({ rsv := 0, var := 0, op := 0 } : CmdFields).wf = false := by decide
theorem test_wf_refuses_operation_ten : ({ rsv := 0, var := 0, op := 10 } : CmdFields).wf = false := by decide
theorem test_wf_refuses_cipher_variant : ({ rsv := 0, var := 10, op := 1 } : CmdFields).wf = false := by decide
theorem test_wf_refuses_plain_variant : ({ rsv := 0, var := 1, op := 7 } : CmdFields).wf = false := by decide
theorem test_wf_refuses_codec_variant : ({ rsv := 0, var := 2, op := 9 } : CmdFields).wf = false := by decide

/-! ### Decoding: words written out bit by bit, RSV (20 bits), VAR (4), OP (8), from 30_encoding.md R301, R303,
R306, R308, R309 -/

theorem test_decode_bc_ctr :
    decodeWord (0b00000000000000000000#20 ++ 0b0000#4 ++ 0b00000001#8) = .ok .bcCtrSpeck64_96
      ∧ decodeWord (0b00000000000000000000#20 ++ 0b0001#4 ++ 0b00000001#8) = .ok .bcCtrSpeck64_128
      ∧ decodeWord (0b00000000000000000000#20 ++ 0b0010#4 ++ 0b00000001#8) = .ok .bcCtrSpeck128_128
      ∧ decodeWord (0b00000000000000000000#20 ++ 0b0011#4 ++ 0b00000001#8) = .ok .bcCtrSpeck128_192
      ∧ decodeWord (0b00000000000000000000#20 ++ 0b0100#4 ++ 0b00000001#8) = .ok .bcCtrSpeck128_256
      ∧ decodeWord (0b00000000000000000000#20 ++ 0b0101#4 ++ 0b00000001#8) = .ok .bcCtrSimon64_96
      ∧ decodeWord (0b00000000000000000000#20 ++ 0b0110#4 ++ 0b00000001#8) = .ok .bcCtrSimon64_128
      ∧ decodeWord (0b00000000000000000000#20 ++ 0b0111#4 ++ 0b00000001#8) = .ok .bcCtrSimon128_128
      ∧ decodeWord (0b00000000000000000000#20 ++ 0b1000#4 ++ 0b00000001#8) = .ok .bcCtrSimon128_192
      ∧ decodeWord (0b00000000000000000000#20 ++ 0b1001#4 ++ 0b00000001#8) = .ok .bcCtrSimon128_256 := by decide

theorem test_decode_bc_enc :
    decodeWord (0b00000000000000000000#20 ++ 0b0000#4 ++ 0b00000010#8) = .ok .bcEncSpeck64_96
      ∧ decodeWord (0b00000000000000000000#20 ++ 0b0001#4 ++ 0b00000010#8) = .ok .bcEncSpeck64_128
      ∧ decodeWord (0b00000000000000000000#20 ++ 0b0010#4 ++ 0b00000010#8) = .ok .bcEncSpeck128_128
      ∧ decodeWord (0b00000000000000000000#20 ++ 0b0011#4 ++ 0b00000010#8) = .ok .bcEncSpeck128_192
      ∧ decodeWord (0b00000000000000000000#20 ++ 0b0100#4 ++ 0b00000010#8) = .ok .bcEncSpeck128_256
      ∧ decodeWord (0b00000000000000000000#20 ++ 0b0101#4 ++ 0b00000010#8) = .ok .bcEncSimon64_96
      ∧ decodeWord (0b00000000000000000000#20 ++ 0b0110#4 ++ 0b00000010#8) = .ok .bcEncSimon64_128
      ∧ decodeWord (0b00000000000000000000#20 ++ 0b0111#4 ++ 0b00000010#8) = .ok .bcEncSimon128_128
      ∧ decodeWord (0b00000000000000000000#20 ++ 0b1000#4 ++ 0b00000010#8) = .ok .bcEncSimon128_192
      ∧ decodeWord (0b00000000000000000000#20 ++ 0b1001#4 ++ 0b00000010#8) = .ok .bcEncSimon128_256 := by decide

theorem test_decode_rabbit :
    decodeWord (0b00000000000000000000#20 ++ 0b0000#4 ++ 0b00000011#8) = .ok .rabbit := by decide

theorem test_decode_trivium :
    decodeWord (0b00000000000000000000#20 ++ 0b0000#4 ++ 0b00000100#8) = .ok .trivium := by decide

theorem test_decode_chacha20 :
    decodeWord (0b00000000000000000000#20 ++ 0b0000#4 ++ 0b00000101#8) = .ok .chacha20 := by decide

theorem test_decode_sha512 :
    decodeWord (0b00000000000000000000#20 ++ 0b0000#4 ++ 0b00000110#8) = .ok .sha512 := by decide

theorem test_decode_rng :
    decodeWord (0b00000000000000000000#20 ++ 0b0000#4 ++ 0b00000111#8) = .ok .rng := by decide

theorem test_decode_b2w :
    decodeWord (0b00000000000000000000#20 ++ 0b0000#4 ++ 0b00001000#8) = .ok .b2wLe32
      ∧ decodeWord (0b00000000000000000000#20 ++ 0b0001#4 ++ 0b00001000#8) = .ok .b2wLe64
      ∧ decodeWord (0b00000000000000000000#20 ++ 0b0011#4 ++ 0b00001000#8) = .ok .b2wBe64 := by decide

theorem test_decode_w2b :
    decodeWord (0b00000000000000000000#20 ++ 0b0000#4 ++ 0b00001001#8) = .ok .w2bLe32
      ∧ decodeWord (0b00000000000000000000#20 ++ 0b0001#4 ++ 0b00001001#8) = .ok .w2bLe64
      ∧ decodeWord (0b00000000000000000000#20 ++ 0b0011#4 ++ 0b00001001#8) = .ok .w2bBe64 := by decide

/-- 95_test_vectors.md A1 to A11. -/
theorem test_decode_rejects :
    decodeWord 0x00000000 = .error .illegalCmd ∧ decodeWord 0x0000000A = .error .illegalCmd
      ∧ decodeWord 0x000000FF = .error .illegalCmd ∧ decodeWord 0x00001003 = .error .illegalCmd
      ∧ decodeWord 0x80000005 = .error .illegalCmd ∧ decodeWord 0x00000A01 = .error .illegalVariant
      ∧ decodeWord 0x00000F02 = .error .illegalVariant ∧ decodeWord 0x00000208 = .error .illegalVariant
      ∧ decodeWord 0x00000409 = .error .illegalVariant ∧ decodeWord 0x00000103 = .error .illegalVariant
      ∧ decodeWord 0x00000107 = .error .illegalVariant := by decide

theorem test_decode_truncated : decode [0x06, 0x00, 0x00] = .error .truncated := by decide

theorem test_fetch_word_runs_command :
    step (State.reset.withFetchWord 32 0x00000006) = exec .sha512 State.reset := rfl

/-! ### One engine step of each command, on published or derived vectors -/

/-- The example of 41_ctr_driver.md R442. -/
theorem test_ctr_speck64_96 : completes (exec .bcCtrSpeck64_96 (running .bcCtrSpeck64_96
    (idleWith (upFrom 0 12) (upFrom 0xf0 8) 0x1000 0x2000 11 0 (upFrom 0x40 11)))) 0x2000
    [0x5f, 0xe0, 0xd4, 0xc1, 0x81, 0xa5, 0xb3, 0xc6, 0xbf, 0xfa, 0x01] = true := by
  decide +kernel

/-- The example of 41_ctr_driver.md R443. -/
theorem test_ctr_speck64_128 : completes (exec .bcCtrSpeck64_128 (running .bcCtrSpeck64_128
    (idleWith (upFrom 0 16) (upFrom 0xf0 8) 0x1000 0x2000 11 0 (upFrom 0x40 11)))) 0x2000
    [0xf0, 0x32, 0x7a, 0x53, 0xda, 0xa5, 0x01, 0x3a, 0xc6, 0x70, 0xe1] = true := by
  decide +kernel

/-- The example of 41_ctr_driver.md R444. -/
theorem test_ctr_speck128_128 : completes (exec .bcCtrSpeck128_128 (running .bcCtrSpeck128_128
    (idleWith (upFrom 0 16) (upFrom 0xf0 16) 0x1000 0x2000 19 0 (upFrom 0x40 19)))) 0x2000
    [0xf5, 0x0b, 0x9e, 0x73, 0xde, 0x93, 0xed, 0x31, 0xac, 0x39, 0xa4, 0x0a, 0xea, 0x01, 0x0e, 0xfa,
     0xcd, 0xc7, 0x90] = true := by
  decide +kernel

/-- The example of 41_ctr_driver.md R445. -/
theorem test_ctr_speck128_192 : completes (exec .bcCtrSpeck128_192 (running .bcCtrSpeck128_192
    (idleWith (upFrom 0 24) (upFrom 0xf0 16) 0x1000 0x2000 19 0 (upFrom 0x40 19)))) 0x2000
    [0xf4, 0x8b, 0x96, 0x33, 0x8f, 0x51, 0x8b, 0xf2, 0xce, 0x6f, 0x59, 0x59, 0xe7, 0x7d, 0x0f, 0xf5,
     0x5d, 0xb9, 0xc8] = true := by
  decide +kernel

/-- The example of 41_ctr_driver.md R446. -/
theorem test_ctr_speck128_256 : completes (exec .bcCtrSpeck128_256 (running .bcCtrSpeck128_256
    (idleWith (upFrom 0 32) (upFrom 0xf0 16) 0x1000 0x2000 19 0 (upFrom 0x40 19)))) 0x2000
    [0x03, 0x1b, 0x28, 0x12, 0x45, 0x9a, 0x6c, 0xb4, 0x24, 0xaa, 0x2f, 0x70, 0xdb, 0xaa, 0xde, 0xdb,
     0x3f, 0x56, 0x34] = true := by
  decide +kernel

/-- The example of 41_ctr_driver.md R447. -/
theorem test_ctr_simon64_96 : completes (exec .bcCtrSimon64_96 (running .bcCtrSimon64_96
    (idleWith (upFrom 0 12) (upFrom 0xf0 8) 0x1000 0x2000 11 0 (upFrom 0x40 11)))) 0x2000
    [0x3e, 0x92, 0x51, 0xb8, 0x2b, 0x26, 0x34, 0x10, 0x43, 0xa6, 0xaf] = true := by
  decide +kernel

/-- The example of 41_ctr_driver.md R448. -/
theorem test_ctr_simon64_128 : completes (exec .bcCtrSimon64_128 (running .bcCtrSimon64_128
    (idleWith (upFrom 0 16) (upFrom 0xf0 8) 0x1000 0x2000 11 0 (upFrom 0x40 11)))) 0x2000
    [0x78, 0x6a, 0x25, 0xc0, 0xbf, 0xc5, 0x2c, 0xb2, 0xe2, 0xf0, 0x0c] = true := by
  decide +kernel

/-- The example of 41_ctr_driver.md R449. -/
theorem test_ctr_simon128_128 : completes (exec .bcCtrSimon128_128 (running .bcCtrSimon128_128
    (idleWith (upFrom 0 16) (upFrom 0xf0 16) 0x1000 0x2000 19 0 (upFrom 0x40 19)))) 0x2000
    [0x1b, 0xd4, 0xa3, 0xdf, 0x77, 0x98, 0xf4, 0xc4, 0x68, 0x31, 0x44, 0xb3, 0xb1, 0x8b, 0xf4, 0x74,
     0xdd, 0x50, 0x0c] = true := by
  decide +kernel

/-- The example of 41_ctr_driver.md R450. -/
theorem test_ctr_simon128_192 : completes (exec .bcCtrSimon128_192 (running .bcCtrSimon128_192
    (idleWith (upFrom 0 24) (upFrom 0xf0 16) 0x1000 0x2000 19 0 (upFrom 0x40 19)))) 0x2000
    [0x2f, 0xd9, 0x5d, 0x7b, 0xab, 0xc0, 0x81, 0x3d, 0x94, 0x24, 0x76, 0x72, 0xc4, 0xd2, 0x63, 0xf7,
     0xaa, 0x05, 0x5f] = true := by
  decide +kernel

/-- The example of 41_ctr_driver.md R451. -/
theorem test_ctr_simon128_256 : completes (exec .bcCtrSimon128_256 (running .bcCtrSimon128_256
    (idleWith (upFrom 0 32) (upFrom 0xf0 16) 0x1000 0x2000 19 0 (upFrom 0x40 19)))) 0x2000
    [0x0c, 0x78, 0x02, 0xca, 0x22, 0xf0, 0x88, 0x20, 0xc4, 0x1a, 0x64, 0x84, 0x6e, 0xf7, 0x9e, 0x87,
     0xed, 0xa3, 0x39] = true := by
  decide +kernel

/-- 95_test_vectors.md B1. -/
theorem test_enc_speck64_96 : completes (exec .bcEncSpeck64_96 (running .bcEncSpeck64_96
    (idleWith [0x00, 0x01, 0x02, 0x03, 0x08, 0x09, 0x0a, 0x0b, 0x10, 0x11, 0x12, 0x13] [] 0x1000 0x2000 8 0 
      [0x65, 0x61, 0x6e, 0x73, 0x20, 0x46, 0x61, 0x74]))) 0x2000
    [0x6c, 0x94, 0x75, 0x41, 0xec, 0x52, 0x79, 0x9f] = true := by
  decide +kernel

/-- 95_test_vectors.md B2. -/
theorem test_enc_speck64_128 : completes (exec .bcEncSpeck64_128 (running .bcEncSpeck64_128
    (idleWith [0x00, 0x01, 0x02, 0x03, 0x08, 0x09, 0x0a, 0x0b, 0x10, 0x11, 0x12, 0x13, 0x18, 0x19, 0x1a, 0x1b] [] 0x1000 0x2000 8 0 
      [0x2d, 0x43, 0x75, 0x74, 0x74, 0x65, 0x72, 0x3b]))) 0x2000
    [0x8b, 0x02, 0x4e, 0x45, 0x48, 0xa5, 0x6f, 0x8c] = true := by
  decide +kernel

/-- 95_test_vectors.md B3. -/
theorem test_enc_speck128_128 : completes (exec .bcEncSpeck128_128 (running .bcEncSpeck128_128
    (idleWith (upFrom 0 16) [] 0x1000 0x2000 16 0 
      [0x20, 0x6d, 0x61, 0x64, 0x65, 0x20, 0x69, 0x74, 0x20, 0x65, 0x71, 0x75, 0x69, 0x76, 0x61, 0x6c]))) 0x2000
    [0x18, 0x0d, 0x57, 0x5c, 0xdf, 0xfe, 0x60, 0x78, 0x65, 0x32, 0x78, 0x79, 0x51, 0x98, 0x5d, 0xa6] = true := by
  decide +kernel

/-- 95_test_vectors.md B4. -/
theorem test_enc_speck128_192 : completes (exec .bcEncSpeck128_192 (running .bcEncSpeck128_192
    (idleWith (upFrom 0 24) [] 0x1000 0x2000 16 0 
      [0x65, 0x6e, 0x74, 0x20, 0x74, 0x6f, 0x20, 0x43, 0x68, 0x69, 0x65, 0x66, 0x20, 0x48, 0x61, 0x72]))) 0x2000
    [0x86, 0x18, 0x3c, 0xe0, 0x5d, 0x18, 0xbc, 0xf9, 0x66, 0x55, 0x13, 0x13, 0x3a, 0xcf, 0xe4, 0x1b] = true := by
  decide +kernel

/-- 95_test_vectors.md B5. -/
theorem test_enc_speck128_256 : completes (exec .bcEncSpeck128_256 (running .bcEncSpeck128_256
    (idleWith (upFrom 0 32) [] 0x1000 0x2000 16 0 
      [0x70, 0x6f, 0x6f, 0x6e, 0x65, 0x72, 0x2e, 0x20, 0x49, 0x6e, 0x20, 0x74, 0x68, 0x6f, 0x73, 0x65]))) 0x2000
    [0x43, 0x8f, 0x18, 0x9c, 0x8d, 0xb4, 0xee, 0x4e, 0x3e, 0xf5, 0xc0, 0x05, 0x04, 0x01, 0x09, 0x41] = true := by
  decide +kernel

/-- 95_test_vectors.md B6. -/
theorem test_enc_simon64_96 : completes (exec .bcEncSimon64_96 (running .bcEncSimon64_96
    (idleWith [0x00, 0x01, 0x02, 0x03, 0x08, 0x09, 0x0a, 0x0b, 0x10, 0x11, 0x12, 0x13] [] 0x1000 0x2000 8 0 
      [0x63, 0x6c, 0x69, 0x6e, 0x67, 0x20, 0x72, 0x6f]))) 0x2000
    [0xc8, 0x8f, 0x1a, 0x11, 0x7f, 0xe2, 0xa2, 0x5c] = true := by
  decide +kernel

/-- 95_test_vectors.md B7. -/
theorem test_enc_simon64_128 : completes (exec .bcEncSimon64_128 (running .bcEncSimon64_128
    (idleWith [0x00, 0x01, 0x02, 0x03, 0x08, 0x09, 0x0a, 0x0b, 0x10, 0x11, 0x12, 0x13, 0x18, 0x19, 0x1a, 0x1b] [] 0x1000 0x2000 8 0 
      [0x75, 0x6e, 0x64, 0x20, 0x6c, 0x69, 0x6b, 0x65]))) 0x2000
    [0x7a, 0xa0, 0xdf, 0xb9, 0x20, 0xfc, 0xc8, 0x44] = true := by
  decide +kernel

/-- 95_test_vectors.md B8. -/
theorem test_enc_simon128_128 : completes (exec .bcEncSimon128_128 (running .bcEncSimon128_128
    (idleWith (upFrom 0 16) [] 0x1000 0x2000 16 0 
      [0x20, 0x74, 0x72, 0x61, 0x76, 0x65, 0x6c, 0x6c, 0x65, 0x72, 0x73, 0x20, 0x64, 0x65, 0x73, 0x63]))) 0x2000
    [0xbc, 0x0b, 0x4e, 0xf8, 0x2a, 0x83, 0xaa, 0x65, 0x3f, 0xfe, 0x54, 0x1e, 0x1e, 0x1b, 0x68, 0x49] = true := by
  decide +kernel

/-- 95_test_vectors.md B9. -/
theorem test_enc_simon128_192 : completes (exec .bcEncSimon128_192 (running .bcEncSimon128_192
    (idleWith (upFrom 0 24) [] 0x1000 0x2000 16 0 
      [0x72, 0x69, 0x62, 0x65, 0x20, 0x77, 0x68, 0x65, 0x6e, 0x20, 0x74, 0x68, 0x65, 0x72, 0x65, 0x20]))) 0x2000
    [0x5b, 0xb8, 0x97, 0x25, 0x6e, 0x8d, 0x9c, 0x6c, 0x4f, 0x0d, 0xdc, 0xfc, 0xef, 0x61, 0xac, 0xc4] = true := by
  decide +kernel

/-- 95_test_vectors.md B10. -/
theorem test_enc_simon128_256 : completes (exec .bcEncSimon128_256 (running .bcEncSimon128_256
    (idleWith (upFrom 0 32) [] 0x1000 0x2000 16 0 
      [0x69, 0x73, 0x20, 0x61, 0x20, 0x73, 0x69, 0x6d, 0x6f, 0x6f, 0x6d, 0x20, 0x69, 0x6e, 0x20, 0x74]))) 0x2000
    [0x68, 0xb8, 0xe7, 0xef, 0x87, 0x2a, 0xf7, 0x3b, 0xa0, 0xa3, 0xc8, 0xaf, 0x79, 0x55, 0x2b, 0x8d] = true := by
  decide +kernel

/-- 95_test_vectors.md RB4. -/
theorem test_rabbit : completes (exec .rabbit (running .rabbit
    (idleWith (upFrom 0 16) (upFrom 0 8) 0x1000 0x2000 32 0 []))) 0x2000
    [0xf2, 0x89, 0x19, 0xdd, 0xa1, 0x28, 0xf8, 0xf9, 0x0a, 0x30, 0x34, 0x6e, 0x97, 0x94, 0xd2, 0xb7,
     0x4c, 0x69, 0xa2, 0xd9, 0x91, 0x37, 0x27, 0xbc, 0x5a, 0x30, 0x18, 0xe6, 0x33, 0x2a, 0xf7, 0xf3] = true := by
  decide +kernel

/-- 95_test_vectors.md V6. -/
theorem test_trivium : completes (exec .trivium (running .trivium
    (idleWith (upFrom 0 10) (upFrom 10 10) 0x1000 0x2000 16 0 []))) 0x2000
    [0x43, 0xcf, 0x6f, 0xf3, 0x91, 0x0e, 0xd5, 0x72, 0x02, 0x5e, 0x5e, 0x6b, 0x34, 0xb3, 0xd8, 0xd9] = true := by
  decide +kernel

/-- 95_test_vectors.md CC2. -/
theorem test_chacha20 : completes (exec .chacha20 (running .chacha20
    (idleWith (upFrom 0 32) [0, 0, 0, 9, 0, 0, 0, 0x4a, 0, 0, 0, 0] 0x1000 0x2000 64 1 []))) 0x2000
    [0x10, 0xf1, 0xe7, 0xe4, 0xd1, 0x3b, 0x59, 0x15, 0x50, 0x0f, 0xdd, 0x1f, 0xa3, 0x20, 0x71, 0xc4,
     0xc7, 0xd1, 0xf4, 0xc7, 0x33, 0xc0, 0x68, 0x03, 0x04, 0x22, 0xaa, 0x9a, 0xc3, 0xd4, 0x6c, 0x4e,
     0xd2, 0x82, 0x64, 0x46, 0x07, 0x9f, 0xaa, 0x09, 0x14, 0xc2, 0xd7, 0x05, 0xd9, 0x8b, 0x02, 0xa2,
     0xb5, 0x12, 0x9c, 0xd1, 0xde, 0x16, 0x4e, 0xb9, 0xcb, 0xd0, 0x83, 0xe8, 0xa2, 0x50, 0x3c, 0x4e] = true := by
  decide +kernel

/-- 95_test_vectors.md S2. -/
theorem test_sha512 : completes (exec .sha512 (running .sha512
    (idleWith [] [] 0x1000 0x2000 3 0 [0x61, 0x62, 0x63]))) 0x2000
    [0xdd, 0xaf, 0x35, 0xa1, 0x93, 0x61, 0x7a, 0xba, 0xcc, 0x41, 0x73, 0x49, 0xae, 0x20, 0x41, 0x31,
     0x12, 0xe6, 0xfa, 0x4e, 0x89, 0xa9, 0x7e, 0xa2, 0x0a, 0x9e, 0xee, 0xe6, 0x4b, 0x55, 0xd3, 0x9a,
     0x21, 0x92, 0x99, 0x2a, 0x27, 0x4f, 0xc1, 0xa8, 0x36, 0xba, 0x3c, 0x23, 0xa3, 0xfe, 0xeb, 0xbd,
     0x45, 0x4d, 0x44, 0x23, 0x64, 0x3c, 0xe8, 0x0e, 0x2a, 0x9a, 0xc9, 0x4f, 0xa5, 0x4c, 0xa4, 0x9f] = true := by
  decide +kernel

/-- 95_test_vectors.md K1. -/
theorem test_b2w_le32 : completes (exec .b2wLe32 (running .b2wLe32
    (idleWith [] [] 0x1000 0x2000 16 0 (upFrom 0 16)))) 0x2000
    [0x00, 0x01, 0x02, 0x03, 0x04, 0x05, 0x06, 0x07, 0x08, 0x09, 0x0a, 0x0b, 0x0c, 0x0d, 0x0e, 0x0f] = true := by
  decide +kernel

/-- 95_test_vectors.md K2. -/
theorem test_b2w_le64 : completes (exec .b2wLe64 (running .b2wLe64
    (idleWith [] [] 0x1000 0x2000 16 0 (upFrom 0 16)))) 0x2000
    [0x00, 0x01, 0x02, 0x03, 0x04, 0x05, 0x06, 0x07, 0x08, 0x09, 0x0a, 0x0b, 0x0c, 0x0d, 0x0e, 0x0f] = true := by
  decide +kernel

/-- 95_test_vectors.md K3, in place. -/
theorem test_b2w_be64 : completes (exec .b2wBe64 (running .b2wBe64
    (idleWith [] [] 0x1000 0x1000 16 0 (upFrom 0 16)))) 0x1000
    [0x07, 0x06, 0x05, 0x04, 0x03, 0x02, 0x01, 0x00, 0x0f, 0x0e, 0x0d, 0x0c, 0x0b, 0x0a, 0x09, 0x08] = true := by
  decide +kernel

/-- 40_codec.md R413. -/
theorem test_w2b_le32 : completes (exec .w2bLe32 (running .w2bLe32
    (idleWith [] [] 0x1000 0x2000 16 0 (upFrom 0 16)))) 0x2000
    [0x00, 0x01, 0x02, 0x03, 0x04, 0x05, 0x06, 0x07, 0x08, 0x09, 0x0a, 0x0b, 0x0c, 0x0d, 0x0e, 0x0f] = true := by
  decide +kernel

/-- 40_codec.md R414. -/
theorem test_w2b_le64 : completes (exec .w2bLe64 (running .w2bLe64
    (idleWith [] [] 0x1000 0x2000 16 0 (upFrom 0 16)))) 0x2000
    [0x00, 0x01, 0x02, 0x03, 0x04, 0x05, 0x06, 0x07, 0x08, 0x09, 0x0a, 0x0b, 0x0c, 0x0d, 0x0e, 0x0f] = true := by
  decide +kernel

/-- 95_test_vectors.md K4. -/
theorem test_w2b_be64 : completes (exec .w2bBe64 (running .w2bBe64
    (idleWith [] [] 0x1000 0x2000 16 0 (upFrom 0 16)))) 0x2000
    [0x07, 0x06, 0x05, 0x04, 0x03, 0x02, 0x01, 0x00, 0x0f, 0x0e, 0x0d, 0x0c, 0x0b, 0x0a, 0x09, 0x08] = true := by
  decide +kernel

/-! ### Witnesses: for each statement with hypotheses, a state and operands that meet them -/

/-- Whether a step answers a next state. -/
def isNext (o : Outcome) : Bool :=
  match o with
  | .next _ => true
  | .fault _ | .refused _ => false

theorem next_of_isNext {o : Outcome} (h : isNext o = true) : o = .next (after o) := by
  cases o with
  | next _ => rfl
  | fault _ => cases h
  | refused _ => cases h

/-- A codec command right after its acceptance: two words in place, and the engine alone moves. -/
def codecRun : State :=
  { running .b2wBe64 (idleWith [] [] 0x1000 0x1000 16 0 (upFrom 0 16)) with later := .cycle [] }

/-- The same command after its initialisation. -/
def codecStarted : State := after (exec .b2wBe64 { codecRun with grain := 0 })

/-- The same command with everything computed, before its DMA writes. -/
def codecComputed : State := after (exec .b2wBe64 { codecRun with grain := 2 })

/-- An rng command of `len` bytes in a phase, with a response waiting. -/
def rngIn (phase : Phase) (init : RngInit) (len : Word) (resp : Option Response) (req : Option Request) : State :=
  let s := running .rng (idleWith [] [] 0 0x2000 len 0 [])
  { s with eng := { s.eng with phase := phase }, rng := { init := init, req := req, resp := resp } }

/-- DecodeEncodeAgree. -/
theorem test_meets_decode : decodeWord 0x00000901 = .ok .bcCtrSimon128_256 := by decide

/-- DecoderChecksInOrder: each clause at the edges of its range. -/
theorem test_meets_decoder_checks :
    (0x00001001 : Word).toNat / 2 ^ 12 ≠ 0 ∧ (0x80000003 : Word).toNat / 2 ^ 12 ≠ 0
      ∧ ((0x00000F00 : Word).toNat / 2 ^ 12 = 0 ∧ (0x00000F00 : Word).toNat % 256 = 0)
      ∧ ((0x0000000A : Word).toNat / 2 ^ 12 = 0 ∧ 10 ≤ (0x0000000A : Word).toNat % 256)
      ∧ ((0x00000A01 : Word).toNat / 2 ^ 12 = 0 ∧ 1 ≤ (0x00000A01 : Word).toNat % 256
          ∧ (0x00000A01 : Word).toNat % 256 ≤ 9 ∧ (splitWord 0x00000A01).varLegal = false)
      ∧ ((0x00000309 : Word).toNat / 2 ^ 12 = 0 ∧ 1 ≤ (0x00000309 : Word).toNat % 256
          ∧ (0x00000309 : Word).toNat % 256 ≤ 9 ∧ (splitWord 0x00000309).varLegal = true) := by decide

/-- StepRunsDecodedCommand: a CMD write, and an engine move while a command runs. -/
theorem test_meets_step_runs :
    nextMove (State.reset.withFetchWord 32 6) = commandMove (State.reset.withFetchWord 32 6) 6
      ∧ (State.reset.withFetchWord 32 6).agenda = commandMove (State.reset.withFetchWord 32 6) 6 :: []
      ∧ (State.reset.withFetchWord 32 6).status.busy = false ∧ decode (bytesOfWord 6) = .ok (.sha512, [])
      ∧ codecRun.eng.phase ≠ .idle ∧ runningCommand codecRun = some .b2wBe64
      ∧ nextMove codecRun = .engine 0 ∧ nextMove { codecRun with agenda := [.engine 2] } = .engine 2 := by
  decide +kernel

/-- IllegalWordEndsInError: both error codes. -/
theorem test_meets_illegal_word :
    decodeWord 0 = .error .illegalCmd ∧ decodeWord 0x00000A01 = .error .illegalVariant
      ∧ (State.reset.withFetchWord 32 0).status.busy = false
      ∧ nextMove (State.reset.withFetchWord 32 0) = commandMove (State.reset.withFetchWord 32 0) 0 := by
  decide +kernel

/-- RegisterReadHasNoSideEffect, SecretsAreNotReadable. -/
theorem test_meets_register_read : hostRegRead 0x5C 4 State.reset = .next (after (hostRegRead 0x5C 4 State.reset)) :=
  next_of_isNext (by decide)

/-- ReservedOffsetsReadZeroIgnoreWrites: the edges of the two reserved ranges. -/
theorem test_meets_reserved : ∀ off ∈ [0x24, 0x3C, 0x70, 0xFC],
    off % 4 = 0 ∧ ((0x24 ≤ off ∧ off ≤ 0x3C) ∨ (0x70 ≤ off ∧ off ≤ 0xFC)) := by decide

/-- NarrowOrMisalignedAccessRefused: a narrow access, and misaligned ones at the edges. -/
theorem test_meets_narrow : ∀ p ∈ [(0, 1), (4, 2), (1, 4), (255, 4), (252, 8)],
    p.1 < 256 ∧ 0 < p.2 ∧ (p.2 ≠ 4 ∨ p.1 % 4 ≠ 0) := by decide

/-- BusyWritesOnlySetOvr: the edges of the lost writes. -/
theorem test_meets_busy_writes : codecRun.status.busy = true ∧ ∀ off ∈ [0x04, 0x0C, 0x1C, 0x40, 0x5C, 0x60, 0x6C],
    off % 4 = 0 ∧ (off = 0x04 ∨ (0x0C ≤ off ∧ off ≤ 0x1C) ∨ (0x40 ≤ off ∧ off ≤ 0x6C)) := by decide +kernel

/-- IdleWritesStore. -/
theorem test_meets_idle_writes : (idleWith [1] [2] 3 4 5 6 [7]).status.busy = false := by decide +kernel

/-- 95_test_vectors.md A14: the nonce length alone is wrong. -/
def nonceBad : State := { State.reset with cfg := 0x100C }

/-- A16: LEN is not the block length. -/
def blockBad : State := { State.reset with cfg := 0xC, len := 7 }

/-- A21 with fewer bytes: the input range passes 2^32 by one byte. -/
def rangeBad : State := { State.reset with cfg := 0xC20, src := 0xFFFFFFF0, dst := 0x1000, len := 0x11 }

/-- A27: the ranges touch and do not intersect. -/
def rangesTouching : State := { State.reset with cfg := 0xC20, src := 0x1000, dst := 0x1010, len := 16 }

/-- A27 with the ranges one byte into each other. -/
def rangesMeeting : State := { State.reset with cfg := 0xC20, src := 0x1000, dst := 0x100F, len := 16 }

/-- A35: the entropy source failed. -/
def entropyBad : State :=
  { State.reset with rng := { init := .fatal, req := none, resp := none }, dst := 0x2000, len := 4 }

/-- AcceptanceChecksInOrder: the key length, the nonce length, LEN. -/
theorem test_meets_length_checks :
    KeyLenFails .bcCtrSpeck64_96 State.reset
      ∧ (¬ KeyLenFails .bcCtrSpeck64_96 nonceBad ∧ NonceLenFails .bcCtrSpeck64_96 nonceBad)
      ∧ (¬ KeyLenFails .bcEncSpeck64_96 blockBad ∧ ¬ NonceLenFails .bcEncSpeck64_96 blockBad
          ∧ LengthFails .bcEncSpeck64_96 blockBad) := by decide +kernel

/-- AcceptanceChecksInOrder: the address range. -/
theorem test_meets_range_check :
    ¬ KeyLenFails .chacha20 rangeBad ∧ ¬ NonceLenFails .chacha20 rangeBad ∧ ¬ LengthFails .chacha20 rangeBad
      ∧ AddrRangeFails .chacha20 rangeBad := by decide +kernel

/-- AcceptanceChecksInOrder: a failed entropy source. -/
theorem test_meets_entropy_check :
    ¬ KeyLenFails .rng entropyBad ∧ ¬ NonceLenFails .rng entropyBad ∧ ¬ LengthFails .rng entropyBad
      ∧ ¬ AddrRangeFails .rng entropyBad ∧ EntropyFails .rng entropyBad := by decide +kernel

/-- AcceptanceChecksInOrder: a command that passes every check but, so far, the overlap. -/
theorem test_meets_other_checks :
    ¬ KeyLenFails .chacha20 rangesTouching ∧ ¬ NonceLenFails .chacha20 rangesTouching
      ∧ ¬ LengthFails .chacha20 rangesTouching ∧ ¬ AddrRangeFails .chacha20 rangesTouching
      ∧ ¬ EntropyFails .chacha20 rangesTouching := by decide +kernel

/-- AcceptanceChecksInOrder, the overlap check: one byte in common; ranges that only touch; an empty range. -/
theorem test_meets_overlap :
    (¬ AddrRangeFails .chacha20 rangesMeeting ∧ OverlapFails .chacha20 rangesMeeting)
      ∧ ¬ OverlapFails .chacha20 rangesTouching ∧ ¬ OverlapFails .rng entropyBad := by
  refine ⟨⟨by decide, ⟨0x100F, by decide, by decide⟩, .inr (by decide)⟩, ?_, ?_⟩
  · rintro ⟨⟨a, h, h'⟩, -⟩
    simp [inputLength, outputLength, readsInput, rangesTouching] at h h'
    omega
  · rintro ⟨⟨a, h, -⟩, -⟩
    simp [inputLength, readsInput] at h
    omega

/-- AcceptanceErrorEffects. -/
theorem test_meets_acceptance_error :
    State.reset.eng.phase = .idle ∧ checkCommand (recipeOf .chacha20) State.reset = some .keyLen
      ∧ checkCommand (recipeOf .b2wLe32) { State.reset with len := 6 } = some .length := by decide

/-- A codec command's registers: two words in place. -/
def codecIdle : State := idleWith [] [] 0x1000 0x1000 16 0 []

/-- The register block begins at the last byte of the command's ranges. -/
def codecAtRegisters : State := { codecIdle with platform := { Platform.plain with regsInDma := some 0x100F } }

/-- A device at the last byte of the command's ranges. -/
def codecAtDevice : State :=
  { codecIdle with platform := { Platform.plain with devices := [{ base := 0x100F, size := 1 }] } }

/-- AcceptedCommandStarts. -/
theorem test_meets_accepted_starts :
    codecIdle.eng.phase = .idle ∧ checkCommand (recipeOf .b2wBe64) codecIdle = none
      ∧ meetsRegisterBlock (recipeOf .b2wBe64) codecIdle = false
      ∧ meetsDevice (recipeOf .b2wBe64) codecIdle = false := by decide +kernel

/-- ForbiddenRangesRefused: each of its clauses. -/
theorem test_meets_forbidden_ranges :
    checkCommand (recipeOf .b2wBe64) codecAtRegisters = none
      ∧ meetsRegisterBlock (recipeOf .b2wBe64) codecAtRegisters = true
      ∧ checkCommand (recipeOf .b2wBe64) codecAtDevice = none
      ∧ meetsRegisterBlock (recipeOf .b2wBe64) codecAtDevice = false
      ∧ meetsDevice (recipeOf .b2wBe64) codecAtDevice = true := by decide +kernel

/-- CtrCompletesWithXoredKeystream: a partial last block, for every variant. -/
theorem test_meets_ctr (v : Variant) : Runnable (ctrOf v)
    (running (ctrOf v) (idleWith (upFrom 0 (variantKeyBytes v)) (upFrom 0 (blockBytes v)) 0x1000 0x2000 19 0 [])) := by
  cases v <;> decide +kernel

/-- EncCompletesWithBlock, for every variant, in place. -/
theorem test_meets_enc (v : Variant) : Runnable (encOf v) (running (encOf v)
    (idleWith (upFrom 0 (variantKeyBytes v)) [] 0x1000 0x1000 (BitVec.ofNat 32 (blockBytes v)) 0 [])) := by
  cases v <;> decide +kernel

/-- RabbitCompletesWithXoredKeystream. -/
theorem test_meets_rabbit : Runnable .rabbit
    (running .rabbit (idleWith (upFrom 0 16) (upFrom 0 8) 0x1000 0x1000 32 0 [])) := by decide +kernel

/-- TriviumCompletesWithKeystream. -/
theorem test_meets_trivium : Runnable .trivium
    (running .trivium (idleWith (upFrom 0 10) (upFrom 0 10) 0 0xFFFFFFF7 9 0 [])) := by decide +kernel

/-- ChachaCompletesWithXoredKeystream: the ranges end at 2^32 and at the first byte of the other. -/
theorem test_meets_chacha : Runnable .chacha20
    (running .chacha20 (idleWith (upFrom 0 32) (upFrom 0 12) 0xFFFFFF80 0xFFFFFF00 128 0xFFFFFFFF [])) := by
  decide +kernel

/-- Sha512CompletesWithDigest: a message whose padding takes two blocks. -/
theorem test_meets_sha512 : Runnable .sha512
    (running .sha512 (idleWith [] [] 0x1000 0x2000 112 0 (upFrom 0 112))) := by decide +kernel

/-- CodecCompletesWithReorderedBytes, for every direction and mode. -/
theorem test_meets_codec (d : Direction) (m : Mode) : Runnable (codecOf d m)
    (running (codecOf d m) (idleWith [] [] 0x1000 0x1000 16 0 (upFrom 0 16))) := by
  cases d <;> cases m <;> decide +kernel

/-- The last byte of an rng command has come. -/
def rngLast : State := rngIn .rngWait .ready 1 (some (.data 0xC3)) none

/-- An rng command that asks for nothing (95_test_vectors.md G7). -/
def rngNothing : State := rngIn .rngWait .ready 0 none none

/-- RngCompletesWithLastByte: the last byte, and no byte. -/
theorem test_meets_rng_last :
    (rngNothing.eng.phase = .rngWait ∧ runs .rng rngNothing = true ∧ rngNothing.eng.spoiled = false
        ∧ rngNothing.len.toNat ≤ rngNothing.eng.off)
      ∧ rngLast.eng.phase = .rngWait ∧ runs .rng rngLast = true ∧ rngLast.eng.spoiled = false
      ∧ rngLast.eng.off + 1 = rngLast.len.toNat ∧ rngLast.rng.resp = some (.data 0xC3)
      ∧ canWrite rngLast (addrAt rngLast.dst rngLast.eng.off) = true := by decide +kernel

/-- 95_test_vectors.md G8: the last byte of an rng command. -/
theorem test_rng : completes (exec .rng rngLast) 0x2000 [0xC3] = true := by decide +kernel

/-- An rng command about to be accepted. -/
def rngIdle (r : RngInit) (n : Word) : State :=
  { idleWith [] [] 0 0x2000 n 0 [] with rng := { init := r, req := none, resp := none } }

/-- 95_test_vectors.md G7: READY and LEN = 0, accepted and then completed. -/
theorem test_rng_nothing : completes (exec .rng (after (exec .rng (rngIdle .ready 0)))) 0x2000 [] = true := by
  decide +kernel

/-- RngStartsByInitState, rng.init = UNINIT. -/
theorem test_meets_rng_start_uninit :
    (rngIdle .uninit 4).eng.phase = .idle ∧ checkCommand rngRecipe (rngIdle .uninit 4) = none
      ∧ meetsRegisterBlock rngRecipe (rngIdle .uninit 4) = false
      ∧ meetsDevice rngRecipe (rngIdle .uninit 4) = false := by decide +kernel

/-- RngStartsByInitState, rng.init = READY and LEN = 0. -/
theorem test_meets_rng_start_ready :
    (rngIdle .ready 0).eng.phase = .idle ∧ checkCommand rngRecipe (rngIdle .ready 0) = none
      ∧ meetsRegisterBlock rngRecipe (rngIdle .ready 0) = false
      ∧ meetsDevice rngRecipe (rngIdle .ready 0) = false := by decide +kernel

/-- The response to INIT, for a command of `n` bytes. -/
def rngAnswered (n : Word) (r : Response) : State := rngIn .rngInit .uninit n (some r) none

/-- RngInitResponse: each of its three clauses. -/
theorem test_meets_rng_init :
    (∀ p ∈ [((0 : Word), Response.present), (1, .present), (4, .absent)],
      (rngAnswered p.1 p.2).eng.phase = .rngInit ∧ runs .rng (rngAnswered p.1 p.2) = true
        ∧ (rngAnswered p.1 p.2).eng.spoiled = false ∧ (rngAnswered p.1 p.2).rng.resp = some p.2
        ∧ (rngAnswered p.1 p.2).eng.off = 0)
      ∧ (rngAnswered 0 .present).len.toNat = 0 ∧ 0 < (rngAnswered 1 .present).len.toNat := by decide +kernel

/-- A byte has come, with one more missing after it. -/
def rngMore : State := rngIn .rngWait .ready 2 (some (.data 0x5A)) none

/-- RngStoresByteAndAsksNext. -/
theorem test_meets_rng_store :
    rngMore.eng.phase = .rngWait ∧ runs .rng rngMore = true ∧ rngMore.eng.off + 1 < rngMore.len.toNat
      ∧ rngMore.rng.resp = some (.data 0x5A)
      ∧ canWrite rngMore (addrAt rngMore.dst rngMore.eng.off) = true := by decide +kernel

/-- The source answered TRANSIENT. -/
def rngTransient : State := rngIn .rngWait .ready 1 (some .transient) none

/-- An rng command in its busy-wait. -/
def rngDelayed (n : Nat) : State :=
  { rngIn .rngDelay .ready 1 none none with eng := { (rngIn .rngDelay .ready 1 none none).eng with retry := n } }

/-- RngRetriesAfterDelay: each of its three clauses. -/
theorem test_meets_rng_retry :
    (rngTransient.eng.phase = .rngWait ∧ runs .rng rngTransient = true
        ∧ rngTransient.eng.off < rngTransient.len.toNat ∧ rngTransient.rng.resp = some .transient)
      ∧ ((rngDelayed 2).eng.phase = .rngDelay ∧ runs .rng (rngDelayed 2) = true ∧ 1 < (rngDelayed 2).eng.retry)
      ∧ ((rngDelayed 1).eng.phase = .rngDelay ∧ runs .rng (rngDelayed 1) = true ∧ (rngDelayed 1).eng.retry = 1
          ∧ (rngDelayed 1).eng.off < (rngDelayed 1).len.toNat) := by decide +kernel

/-- The same byte where the bus does not answer its write. -/
def rngNoBus : State :=
  { rngMore with platform := { Platform.plain with noWrite := [{ base := 0x2000, size := 1 }] } }

/-- RngBusErrorKeepsWrittenBytes. -/
theorem test_meets_rng_bus :
    rngNoBus.eng.phase = .rngWait ∧ runs .rng rngNoBus = true ∧ rngNoBus.eng.spoiled = false
      ∧ rngNoBus.eng.off < rngNoBus.len.toNat ∧ rngNoBus.rng.resp = some (.data 0x5A)
      ∧ canWrite rngNoBus (addrAt rngNoBus.dst rngNoBus.eng.off) = false := by decide +kernel

/-- An unanswered BYTE request, and three engine moves. -/
def rngWaiting : State :=
  { rngIn .rngWait .ready 1 none (some .byte) with agenda := List.replicate 3 (.engine 0) }

/-- RngMayWaitForEver: with three engine moves to come, and with the engine's alone for ever. -/
theorem test_meets_rng_wait :
    rngWaiting.agenda = List.replicate 3 (.engine 0)
      ∧ engineOnly { rngWaiting with agenda := [], later := .cycle [] } ∧ rngWaiting.status.busy = true
      ∧ rngWaiting.eng.phase = .rngWait ∧ runs .rng rngWaiting = true
      ∧ rngWaiting.eng.off < rngWaiting.len.toNat ∧ rngWaiting.rng.resp = none := by decide +kernel

/-- A source that answers each request with TRANSIENT, without end. -/
def rngUnlucky : State := { rngWaiting with agenda := [], later := .cycle (transientRound 1) }

/-- RngRetriesForEver. -/
theorem test_meets_rng_retries :
    rngUnlucky.status.busy = true ∧ rngUnlucky.eng.phase = .rngWait ∧ runs .rng rngUnlucky = true
      ∧ rngUnlucky.eng.off < rngUnlucky.len.toNat ∧ rngUnlucky.rng.req = some .byte
      ∧ rngUnlucky.rng.resp = none ∧ 0 < rngUnlucky.platform.retryDelay ∧ rngUnlucky.agenda = []
      ∧ rngUnlucky.later = .cycle (transientRound rngUnlucky.platform.retryDelay) := by decide +kernel

/-- R670: a round begins with TRANSIENT, and the same rounds come after it. -/
theorem test_rng_transient_again :
    nextMove rngUnlucky = .entropy .transient ∧ (takeMove rngUnlucky).later = rngUnlucky.later
      ∧ (after (step rngUnlucky)).rng.resp = some .transient := by decide +kernel

/-- RngEndsOnlyByDataOrReset: a waiting command, the delayed one, and a step of the first. -/
theorem test_meets_rng_data :
    AwaitsByte rngUnlucky
      ∧ AwaitsByte { rngUnlucky with eng := { rngUnlucky.eng with phase := .rngDelay, retry := 1 } }
      ∧ nextMove rngUnlucky ≠ .reset ∧ (∀ v, nextMove rngUnlucky ≠ .entropy (.data v))
      ∧ isNext (step rngUnlucky) = true :=
  ⟨⟨by decide +kernel, by decide +kernel, by decide +kernel, by decide +kernel, 
      fun v => by simp [rngUnlucky, rngWaiting, rngIn]⟩,
    ⟨by decide +kernel, by decide +kernel, by decide +kernel, by decide +kernel,
      fun v => by simp [rngUnlucky, rngWaiting, rngIn]⟩,
    by decide +kernel, fun v => by simp [nextMove, laterMove, rngUnlucky, transientRound], by decide +kernel⟩

/-- Two bytes asked for, and a source that answers. -/
def rngFed : State :=
  { rngIn .rngWait .ready 2 none (some .byte) with
    agenda := [.entropy (.data 0x5A), .engine 0, .entropy (.data 0x01), .engine 0] }

/-- RngWritesEntropyBytesInOrder. -/
theorem test_meets_rng_order :
    [(0x5A : Byte), 0x01] ≠ [] ∧ [(0x5A : Byte), 0x01].length = rngFed.len.toNat ∧ rngFed.mem.wf = true
      ∧ rngFed.dst.toNat + rngFed.len.toNat ≤ 2 ^ 32 ∧ outputAnswers rngFed rngFed.len.toNat = true
      ∧ rngFed.status.busy = true ∧ rngFed.status.err = false ∧ rngFed.eng.phase = .rngWait
      ∧ runs .rng rngFed = true ∧ rngFed.eng.off = 0 ∧ rngFed.eng.spoiled = false
      ∧ rngFed.rng.req = some .byte ∧ rngFed.rng.resp = none
      ∧ rngFed.agenda = [(0x5A : Byte), 0x01].flatMap (fun v => [.entropy (.data v), .engine 0]) := by
  decide +kernel

/-- The entropy source failed, and the engine alone moves. -/
def fatalState : State :=
  { State.reset with rng := { init := .fatal, req := none, resp := none }, later := .cycle [] }

/-- A machine whose entropy source failed meets the invariant. -/
theorem test_fatal_invariant : Invariant fatalState where
  mem := by decide
  cfg := by decide
  irqEn := by decide
  busy := by decide
  busyOpen := by decide
  noErr := by decide
  code := by decide
  idle := by decide
  command := fun h => absurd rfl h
  off := by decide
  rngOff := fun h => by rcases h with h | h | h <;> cases h
  rngInit := by decide
  retry := by decide
  port := ⟨rfl, rfl⟩

/-- FatalLastsUntilReset. -/
theorem test_meets_fatal :
    fatalState.rng.init = .fatal ∧ nextMove fatalState ≠ .reset ∧ step fatalState = .next (after (step fatalState)) :=
  ⟨rfl, by decide, next_of_isNext (by decide)⟩

/-- EntropyResponseTakenOrDiscarded: each of its clauses. -/
theorem test_meets_entropy :
    rngWaiting.rng.req = some .byte ∧ answers .byte .transient = true ∧ answers .byte .present = false
      ∧ State.reset.rng.req = none := by decide +kernel

/-- The last input byte of a codec command does not answer. -/
def codecNoBus : State :=
  { codecRun with platform := { Platform.plain with noRead := [{ base := 0x100F, size := 1 }] } }

/-- BusErrorLeavesOldOrComputed. -/
theorem test_meets_bus_error : Accepted .b2wBe64 codecNoBus ∧ ¬ BusAnswers .b2wBe64 codecNoBus
    ∧ WholeInOneStep .b2wBe64 codecNoBus ∧ codecNoBus.mem.wf = true := by decide +kernel

/-- A codec command whose output range ends at 2^32. -/
def codecTop : State := { running .w2bLe32 (idleWith [] [] 0x1000 0xFFFFFFFC 4 0 []) with grain := 0 }

/-- EngineStepFrame. -/
theorem test_meets_engine_frame : codecTop.eng.phase ≠ .idle
    ∧ codecTop.dst.toNat + (recipeOf .w2bLe32).outLen codecTop.len.toNat ≤ 2 ^ 32
    ∧ isNext (exec .w2bLe32 codecTop) = true := by decide +kernel

/-- AcceptanceFrame: an acceptance that starts a command, and one that ends in an error. -/
theorem test_meets_acceptance_frame :
    codecIdle.eng.phase = .idle ∧ isNext (exec .b2wBe64 codecIdle) = true
      ∧ isNext (exec .b2wBe64 { codecIdle with len := 15 }) = true := by decide +kernel

/-- GranularityIsUnobservable: a first step that leaves the command running, and one that ends it. -/
theorem test_meets_granularity :
    codecRun.eng.phase = .run ∧ runs .b2wBe64 codecRun = true ∧ codecStarted.eng.phase = .run
      ∧ (after (exec .b2wBe64 { codecRun with grain := 3 })).eng.phase ≠ .run := by decide +kernel

/-- An engine move with room for the whole command. -/
def codecEnding : State := { codecRun with agenda := [.engine 9] }

/-- CompletionClearsKeyAndEngine. -/
theorem test_meets_completion : codecEnding.status.busy = true ∧ isNext (step codecEnding) = true
    ∧ (after (step codecEnding)).status.busy = false := by decide +kernel

/-- A write of SRC while a command runs. -/
def codecWritten : State := { codecRun with agenda := [.regWrite 0x10 4 7] }

/-- OperandsStableWhileBusy. -/
theorem test_meets_operands_stable :
    codecWritten.status.busy = true ∧ codecWritten.eng.phase ≠ .idle ∧ isNext (step codecWritten) = true
      ∧ (after (step codecWritten)).status.busy = true := by decide +kernel

/-- OnlyEngineOrResetEndsCommand. -/
theorem test_meets_only_engine : codecWritten.status.busy = true ∧ (∀ g, nextMove codecWritten ≠ .engine g)
    ∧ nextMove codecWritten ≠ .reset ∧ isNext (step codecWritten) = true :=
  ⟨by decide +kernel, fun g => by simp [nextMove, codecWritten], by decide, by decide +kernel⟩

/-- The host writes sha512's word to CMD. -/
def shaWritten : State := State.reset.withFetchWord 32 6

/-- OnlyCmdWriteLeavesIdle. -/
theorem test_meets_only_cmd : shaWritten.eng.phase = .idle ∧ isNext (step shaWritten) = true
    ∧ (after (step shaWritten)).eng.phase ≠ .idle := by decide +kernel

/-- CommandsEndInBoundedSteps. -/
theorem test_meets_bounded : Accepted .b2wBe64 codecRun ∧ engineOnly codecRun := by decide +kernel

/-- An rng command that wrote the first of its two bytes. -/
def rngHalf : State := after (exec .rng rngMore)

/-- HostReadsOldOrComputed, of rng: the byte that is written, and the one that is not. -/
theorem test_meets_host_read_rng :
    inRngPhase rngHalf ∧ runs .rng rngHalf = true ∧ rngHalf.eng.spoiled = false
      ∧ hostCoherent rngHalf false = true ∧ inOutput (recipeOf .rng) rngHalf (0x2000 : Word).toNat = true
      ∧ inOutput (recipeOf .rng) rngHalf (0x2001 : Word).toNat = true
      ∧ (0x2000 : Word).toNat - rngHalf.dst.toNat < rngHalf.eng.under.length
      ∧ rngHalf.eng.under.length ≤ (0x2001 : Word).toNat - rngHalf.dst.toNat :=
  ⟨.inr (.inl (by decide +kernel)), by decide +kernel⟩

/-- HostReadsOldOrComputed: the first and the last byte of the output range. -/
theorem test_meets_host_read :
    codecComputed.eng.phase = .run ∧ runs .b2wBe64 codecComputed = true ∧ codecComputed.eng.spoiled = false
      ∧ hostCoherent codecComputed false = true
      ∧ inOutput (recipeOf .b2wBe64) codecComputed (0x1000 : Word).toNat = true
      ∧ inOutput (recipeOf .b2wBe64) codecComputed (0x100F : Word).toNat = true := by decide +kernel

/-- A computed command to whose ranges the host wrote. -/
def codecSpoiled : State := { codecComputed with eng := { codecComputed.eng with spoiled := true } }

/-- HostWriteFreesOutput: a write to a running command's range, and its completion afterwards. -/
theorem test_meets_host_write :
    hostCoherent codecComputed false = true ∧ inRunningRanges codecComputed (0x1000 : Word).toNat = true
      ∧ codecSpoiled.eng.phase = .run ∧ runs .b2wBe64 codecSpoiled = true ∧ codecSpoiled.eng.spoiled = true
      ∧ codecSpoiled.eng.ready = true ∧ (recipeOf .b2wBe64).outLen codecSpoiled.len.toNat ≤ codecSpoiled.eng.off
      ∧ outputAnswers codecSpoiled ((recipeOf .b2wBe64).outLen codecSpoiled.len.toNat) = true := by
  decide +kernel

/-- HostCacheDuty: each of its clauses. -/
theorem test_meets_cache_duty :
    ({ Platform.plain with coherent := false } : Platform).coherent = false
      ∧ State.reset.platform.coherent = true ∧ inRunningRanges codecRun (0x1010 : Word).toNat = false := by
  decide +kernel

/-- ResetFromAnyState: rng with a byte written. -/
theorem test_meets_reset_rng : inRngPhase rngHalf ∧ runs .rng rngHalf = true ∧ rngHalf.eng.spoiled = false :=
  ⟨.inr (.inl (by decide +kernel)), by decide +kernel⟩

/-- ResetFromAnyState: an idle machine, and a running command. -/
theorem test_meets_reset :
    State.reset.eng.phase = .idle ∧ runningCommand codecComputed = some .b2wBe64
      ∧ codecComputed.dst.toNat + (recipeOf .b2wBe64).outLen codecComputed.len.toNat ≤ 2 ^ 32
      ∧ inOutput (recipeOf .b2wBe64) codecComputed 0x1010 = false ∧ codecComputed.eng.spoiled = false
      ∧ codecComputed.mem.wf = true ∧ 15 < (recipeOf .b2wBe64).outLen codecComputed.len.toNat := by decide +kernel

/-- The words of codecRun, converted from one place to another. -/
def codecElsewhere : State := running .b2wBe64 (idleWith [] [] 0x3000 0x2000 16 0 (upFrom 0 16))

/-- OutputDependsOnOperandsAlone: the same words converted in place and elsewhere. -/
theorem test_meets_operands_alone :
    Runnable .b2wBe64 codecRun ∧ Runnable .b2wBe64 codecElsewhere ∧ codecRun.mem.wf = true
      ∧ codecElsewhere.mem.wf = true ∧ codecRun.key = codecElsewhere.key ∧ codecRun.nonce = codecElsewhere.nonce
      ∧ codecRun.ctr = codecElsewhere.ctr ∧ codecRun.len = codecElsewhere.len
      ∧ inputBytes .b2wBe64 codecRun = inputBytes .b2wBe64 codecElsewhere
      ∧ isNext (exec .b2wBe64 codecRun) = true ∧ isNext (exec .b2wBe64 codecElsewhere) = true := by decide +kernel

/-- A chacha20 message of three bytes. -/
def chachaMessage : State :=
  running .chacha20 (idleWith (upFrom 0 32) [0, 0, 0, 9, 0, 0, 0, 0x4a, 0, 0, 0, 0] 0x1000 0x2000 3 1 [0x61, 0x62, 0x63])

/-- Its ciphertext: the first bytes of 95_test_vectors.md CC2 XORed with the message. -/
def chachaCipher : State :=
  running .chacha20 (idleWith (upFrom 0 32) [0, 0, 0, 9, 0, 0, 0, 0x4a, 0, 0, 0, 0] 0x1000 0x2000 3 1 [0x71, 0x93, 0x84])

/-- StreamCommandsDecryptThemselves: two machines that meet its hypotheses on the states. -/
theorem test_meets_decrypt :
    Runnable .chacha20 chachaMessage ∧ Runnable .chacha20 chachaCipher ∧ chachaMessage.mem.wf = true
      ∧ chachaCipher.mem.wf = true ∧ chachaMessage.key = chachaCipher.key
      ∧ chachaMessage.nonce = chachaCipher.nonce ∧ chachaMessage.ctr = chachaCipher.ctr
      ∧ chachaMessage.len = chachaCipher.len := by decide +kernel

/-- StreamCommandsDecryptThemselves: the first machine completes, and the second one's input is what it wrote. -/
theorem test_meets_decrypt_run :
    completes (exec .chacha20 chachaMessage) 0x2000 (inputBytes .chacha20 chachaCipher) = true := by decide +kernel

/-- StreamCommandsDecryptThemselves: the second machine completes. -/
theorem test_meets_decrypt_back :
    completes (exec .chacha20 chachaCipher) 0x2000 [0x61, 0x62, 0x63] = true := by decide +kernel

/-- BlockFunctionIsPermutation. -/
theorem test_meets_permutation : (upFrom 0 8).length = blockBytes .simon64_96 := by decide

/-- CodecFunctionsAreInverse. -/
theorem test_meets_codec_inverse : (upFrom 0 16).length = 32 / 8 * 4 ∧ (upFrom 0 16).length = 64 / 8 * 2 := by decide

/-- StepKeepsInvariant, NoStepFaults: a running command meets the invariant. -/
theorem test_running_invariant : Invariant codecRun where
  mem := by decide +kernel
  cfg := by decide +kernel
  irqEn := by decide +kernel
  busy := by decide +kernel
  busyOpen := by decide +kernel
  noErr := by decide +kernel
  code := by decide +kernel
  idle := by decide +kernel
  command := fun _ => ⟨.b2wBe64, by decide +kernel, by decide +kernel, by decide +kernel⟩
  off := by decide +kernel
  rngOff := fun h => by rcases h with h | h | h <;> cases h
  rngInit := by decide +kernel
  retry := by decide +kernel
  port := ⟨rfl, rfl⟩

/-- StepKeepsInvariant: a step from it. -/
theorem test_meets_invariant_step : step codecRun = .next (after (step codecRun)) :=
  next_of_isNext (by decide +kernel)

/-- NoStepFaults: a step that is refused. -/
theorem test_meets_refusal :
    step { codecRun with agenda := [.regRead 0x00 2] } = .refused .registerAccess := rfl

end Sys2Proof.Tests
end

/-! ### Proofs: the phases of the rng command, and what an engine step of any command leaves alone -/

namespace Sys2Proof.Machine

/-! #### The rng command, one phase at a time (47_rng.md R664 to R668) -/

/-- The entropy source's response to INIT is taken and decides rng.init (R664). -/
def takeInitResponse (outcome : RngInit) (s : State) : State :=
  { s with rng := { s.rng with init := outcome, resp := none } }

/-- The response TRANSIENT is taken and the busy-wait starts (R666). -/
def enterDelay (s : State) : State :=
  { s with
    eng := { s.eng with phase := .rngDelay, retry := s.platform.retryDelay }
    rng := { s.rng with resp := none } }

/-- One engine step of the busy-wait (R667). -/
def countDown (s : State) : State := { s with eng := { s.eng with retry := s.eng.retry - 1 } }

/-- rng completes over its bytes, or over free bytes after a spoiled run. -/
theorem finishRng_cases (s : State) :
    (s.eng.spoiled = true ∧ finishRng s = complete (freeOutput rngRecipe s))
      ∨ (s.eng.spoiled = false ∧ finishRng s = complete s) := by
  unfold finishRng
  cases s.eng.spoiled with
  | true => exact .inl ⟨rfl, rfl⟩
  | false => exact .inr ⟨rfl, rfl⟩

/-- A step of RNG_INIT waits, completes, goes on to RNG_WAIT, or fails (R664). -/
theorem rngInitStep_cases (s : State) :
    rngInitStep s = s
      ∨ (s.rng.resp = some .present ∧ s.len.toNat = 0 ∧ rngInitStep s = finishRng (takeInitResponse .ready s))
      ∨ (s.rng.resp = some .present ∧ 0 < s.len.toNat ∧ rngInitStep s = enterWait (takeInitResponse .ready s))
      ∨ (s.rng.resp = some .absent ∧
        rngInitStep s = failRunning rngRecipe .entropyAbsent (takeInitResponse .fatal s)) := by
  unfold rngInitStep
  split
  · rename_i h
    by_cases hl : s.len.toNat = 0
    · exact .inr (.inl ⟨h, hl, if_pos hl⟩)
    · exact .inr (.inr (.inl ⟨h, Nat.pos_of_ne_zero hl, if_neg hl⟩))
  · exact .inr (.inr (.inr ⟨‹_›, rfl⟩))
  all_goals exact .inl rfl

/-- A step of RNG_WAIT with nothing missing completes; else it stores a byte and completes or goes on, fails on the
bus, starts the busy-wait, or waits (R665, R666, R668). -/
theorem rngWaitStep_cases (s : State) :
    (s.len.toNat ≤ s.eng.off ∧ rngWaitStep s = finishRng s)
      ∨ (s.eng.off < s.len.toNat ∧
        ((∃ v, s.rng.resp = some (.data v) ∧
            ((s.eng.off + 1 = s.len.toNat ∧ rngWaitStep s = finishRng (storeRandom v s))
              ∨ (s.eng.off + 1 ≠ s.len.toNat ∧ rngWaitStep s = enterWait (storeRandom v s))
              ∨ rngWaitStep s = failRunning rngRecipe .bus s))
          ∨ (s.rng.resp = some .transient ∧ rngWaitStep s = enterDelay s)
          ∨ rngWaitStep s = s)) := by
  unfold rngWaitStep
  by_cases hl : s.len.toNat ≤ s.eng.off
  · exact .inl ⟨hl, if_pos hl⟩
  · refine .inr ⟨Nat.lt_of_not_le hl, ?_⟩
    rw [if_neg hl]
    split
    · rename_i v h
      refine .inl ⟨v, h, ?_⟩
      cases canWrite s (addrAt s.dst s.eng.off) with
      | false => exact .inr (.inr rfl)
      | true =>
        by_cases ho : s.eng.off + 1 = s.len.toNat
        · exact .inl ⟨ho, if_pos ho⟩
        · exact .inr (.inl ⟨ho, if_neg ho⟩)
    · exact .inr (.inl ⟨‹_›, rfl⟩)
    all_goals exact .inr (.inr rfl)

/-- A step of RNG_DELAY counts down, and at the end waits for a byte again (R667). -/
theorem rngDelayStep_cases (s : State) :
    rngDelayStep s = enterWait s ∨ (0 < s.eng.retry - 1 ∧ rngDelayStep s = countDown s) := by
  unfold rngDelayStep
  by_cases h : s.eng.retry - 1 = 0
  · exact .inl (if_pos h)
  · exact .inr ⟨Nat.pos_of_ne_zero h, if_neg h⟩

/-! #### An engine step of any command -/

/-- What an engine step of a running command does to the registers: the command goes on under the same KEY and flags,
or it has ended with KEY, eng and BUSY cleared. -/
structure EngineStep (s t : State) : Prop where
  same : SameRegisters s t
  outcome : (t.key = s.key ∧ t.status = s.status) ∨ (t.key = zeroKey ∧ t.eng = Eng.zero ∧ t.status.busy = false)

theorem EngineStep.of_goesOn {s t : State} (h : SameRegisters s t) (hk : t.key = s.key)
    (hst : t.status = s.status) : EngineStep s t := ⟨h, .inl ⟨hk, hst⟩⟩

theorem EngineStep.of_complete {s u : State} (h : SameRegisters s (complete u)) : EngineStep s (complete u) :=
  ⟨h, .inr ⟨rfl, rfl, rfl⟩⟩

theorem engineStep_finishRng {s u : State} (h : SameRegisters s u) : EngineStep s (finishRng u) := by
  rcases finishRng_cases u with ⟨-, e⟩ | ⟨-, e⟩ <;> rw [e] <;>
    exact .of_complete (h.trans (by constructor <;> rfl))

theorem engineStep_failRunning {s u : State} (c : Recipe) (e : ErrCode) (h : SameRegisters s u) :
    EngineStep s (failRunning c e u) :=
  ⟨h.trans (by constructor <;> rfl), .inr ⟨rfl, rfl, rfl⟩⟩

theorem engineStep_rngInitStep (s : State) : EngineStep s (rngInitStep s) := by
  rcases rngInitStep_cases s with e | ⟨-, -, e⟩ | ⟨-, -, e⟩ | ⟨-, e⟩ <;> rw [e]
  · exact .of_goesOn (.refl s) rfl rfl
  · exact engineStep_finishRng (by constructor <;> rfl)
  · exact .of_goesOn (by constructor <;> rfl) rfl rfl
  · exact engineStep_failRunning _ _ (by constructor <;> rfl)

theorem engineStep_rngWaitStep (s : State) : EngineStep s (rngWaitStep s) := by
  rcases rngWaitStep_cases s with ⟨-, e⟩ | ⟨-, ⟨v, -, ⟨-, e⟩ | ⟨-, e⟩ | e⟩ | ⟨-, e⟩ | e⟩ <;> rw [e]
  · exact engineStep_finishRng (.refl s)
  · exact engineStep_finishRng (by constructor <;> rfl)
  · exact .of_goesOn (by constructor <;> rfl) rfl rfl
  · exact engineStep_failRunning _ _ (.refl s)
  · exact .of_goesOn (by constructor <;> rfl) rfl rfl
  · exact .of_goesOn (.refl s) rfl rfl

theorem engineStep_rngDelayStep (s : State) : EngineStep s (rngDelayStep s) := by
  rcases rngDelayStep_cases s with e | ⟨-, e⟩ <;> rw [e] <;>
    exact .of_goesOn (by constructor <;> rfl) rfl rfl

/-- What `exec` of a running command is: units of its recipe, or a step of rng's phase. -/
theorem exec_running {i : Instr} {s t : State} (hp : s.eng.phase ≠ .idle) (h : exec i s = .next t) :
    runs i s = true ∧
      ((i ≠ .rng ∧ s.eng.phase = .run ∧ t = runSteps (recipeOf i) (s.grain + 1) s)
        ∨ (i = .rng ∧ s.eng.phase = .rngInit ∧ t = rngInitStep s)
        ∨ (i = .rng ∧ s.eng.phase = .rngWait ∧ t = rngWaitStep s)
        ∨ (i = .rng ∧ s.eng.phase = .rngDelay ∧ t = rngDelayStep s)) := by
  by_cases hi : i = .rng
  · subst hi
    rcases execRng_next h with ⟨hp', -⟩ | ⟨hp', hr, ht⟩ | ⟨hp', hr, ht⟩ | ⟨hp', hr, ht⟩
    · exact absurd hp' hp
    · exact ⟨hr, .inr (.inl ⟨rfl, hp', ht⟩)⟩
    · exact ⟨hr, .inr (.inr (.inl ⟨rfl, hp', ht⟩))⟩
    · exact ⟨hr, .inr (.inr (.inr ⟨rfl, hp', ht⟩))⟩
  · rw [exec_eq_perform hi] at h
    rcases perform_next h with ⟨hp', -⟩ | ⟨hp', hr, ht⟩
    · exact absurd hp' hp
    · exact ⟨hr, .inl ⟨hi, hp', ht⟩⟩

/-- What `exec` of any command is with the engine idle: its acceptance (60_exceptions.md R705). -/
theorem exec_idle (i : Instr) {s : State} (hp : s.eng.phase = .idle) :
    exec i s = accept i (recipeOf i) (if i = .rng then enterRng else enterRun) s := by
  by_cases hi : i = .rng
  · subst hi
    simp only [exec, execRng, hp, if_true, recipeOf]
  · rw [exec_eq_perform hi, perform_idle hp, if_neg hi]

theorem engineStep_exec {i : Instr} {s t : State} (hp : s.eng.phase ≠ .idle) (h : exec i s = .next t) :
    EngineStep s t := by
  rcases (exec_running hp h).2 with ⟨-, hr, rfl⟩ | ⟨-, -, rfl⟩ | ⟨-, -, rfl⟩ | ⟨-, -, rfl⟩
  · obtain ⟨hsame, hgo | hend⟩ := runSteps_effect i (s.grain + 1) s hr
    · exact .of_goesOn hsame hgo.key hgo.status
    · exact ⟨hsame, .inr ⟨hend.key, hend.eng, hend.busy⟩⟩
  · exact engineStep_rngInitStep s
  · exact engineStep_rngWaitStep s
  · exact engineStep_rngDelayStep s

/-! #### rng.init and memory -/

/-- Only the step that takes the response to INIT changes rng.init (10_state.md R133). -/
theorem rngInit_exec {i : Instr} {s t : State} (hp : s.eng.phase ≠ .idle) (hq : s.eng.phase ≠ .rngInit)
    (h : exec i s = .next t) : t.rng.init = s.rng.init := by
  have hfinish : ∀ u : State, (finishRng u).rng.init = u.rng.init := fun u => by
    rcases finishRng_cases u with ⟨-, e⟩ | ⟨-, e⟩ <;> rw [e] <;> rfl
  rcases (exec_running hp h).2 with ⟨-, hr, rfl⟩ | ⟨-, hi, -⟩ | ⟨-, -, rfl⟩ | ⟨-, -, rfl⟩
  · obtain ⟨-, hgo | hend⟩ := runSteps_effect i (s.grain + 1) s hr
    · rw [hgo.rng]
    · rw [hend.rng]
  · exact absurd hi hq
  · rcases rngWaitStep_cases s with ⟨-, e⟩ | ⟨-, ⟨v, -, ⟨-, e⟩ | ⟨-, e⟩ | e⟩ | ⟨-, e⟩ | e⟩ <;> rw [e]
    · exact hfinish s
    · exact hfinish _
    all_goals rfl
  · rcases rngDelayStep_cases s with e | ⟨-, e⟩ <;> rw [e] <;> rfl

/-- A write of at most `n` bytes at DST leaves the bytes outside the first `n` alone (20_memory.md R201). -/
theorem readMem_writeBytes_outside {m : Memory} {base : Word} {bs : List Byte} {n a : Nat} (hn : bs.length ≤ n)
    (hfit : base.toNat + n ≤ 2 ^ 32) (ha : ¬ (base.toNat ≤ a ∧ a < base.toNat + n)) :
    readMem (writeBytes m base bs) a = readMem m a := by
  apply readMem_writeBytes_other
  intro j hj
  rw [addrAt_eq (by omega)]
  omega

section
variable {c : Recipe} {s : State} {a : Nat}
  (hfit : s.dst.toNat + c.outLen s.len.toNat ≤ 2 ^ 32) (ha : inOutput c s a = false)
include hfit ha

theorem readMem_writeOutput_outside {m : Memory} {bs : List Byte} (hn : bs.length ≤ c.outLen s.len.toNat) :
    readMem (writeBytes m s.dst bs) a = readMem m a :=
  readMem_writeBytes_outside hn hfit (of_decide_eq_false ha)

theorem readMem_freeOutput_outside : readMem (freeOutput c s).mem a = readMem s.mem a :=
  readMem_writeOutput_outside hfit ha (by simp)

theorem readMem_settledMem_outside : readMem (settledMem c s) a = readMem s.mem a := by
  unfold settledMem
  dsimp only
  split
  · exact readMem_writeOutput_outside hfit ha (by simp)
  · split
    · exact readMem_writeOutput_outside hfit ha (by simp)
    all_goals rfl

theorem readMem_runStep_outside : readMem (runStep c s).mem a = readMem s.mem a := by
  rcases runStep_cases c s with ⟨-, e⟩ | ⟨-, -, -, e⟩ | ⟨-, -, -, e⟩ | ⟨-, e⟩ <;> rw [e]
  · rcases finish_cases c (s.eng.out.take (c.outLen s.len.toNat)) s with ⟨-, e⟩ | ⟨-, e⟩ <;> rw [e]
    · exact readMem_freeOutput_outside hfit ha
    · exact readMem_writeOutput_outside hfit ha (List.length_take_le _ _)
  · exact readMem_settledMem_outside hfit ha

end

theorem readMem_runSteps_outside {i : Instr} {s : State} {a : Nat}
    (hfit : s.dst.toNat + (recipeOf i).outLen s.len.toNat ≤ 2 ^ 32) (ha : inOutput (recipeOf i) s a = false)
    (k : Nat) : readMem (runSteps (recipeOf i) k s).mem a = readMem s.mem a := by
  have hkeep := runSteps_keeps (c := recipeOf i)
    (P := fun t => (t.dst = s.dst ∧ t.len = s.len) ∧ readMem t.mem a = readMem s.mem a)
    (fun t _ ⟨⟨hd, hl⟩, hm⟩ => by
      have hsame := (runStep_effect i t).1
      refine ⟨⟨hsame.dst.trans hd, hsame.len.trans hl⟩, ?_⟩
      rw [readMem_runStep_outside (by rwa [hd, hl]) (by rwa [inOutput, hd, hl]), hm])
    k s ⟨⟨rfl, rfl⟩, rfl⟩
  exact hkeep.2

section
variable {s : State} {a : Nat} (hfit : s.dst.toNat + s.len.toNat ≤ 2 ^ 32) (ha : inOutput rngRecipe s a = false)
include hfit ha

theorem readMem_finishRng_outside : readMem (finishRng s).mem a = readMem s.mem a := by
  rcases finishRng_cases s with ⟨-, e⟩ | ⟨-, e⟩ <;> rw [e]
  · exact readMem_freeOutput_outside (c := rngRecipe) hfit ha
  · rfl

theorem readMem_storeRandom_outside (v : Byte) (ho : s.eng.off < s.len.toNat) :
    readMem (storeRandom v s).mem a = readMem s.mem a := by
  have ha' : ¬ (s.dst.toNat ≤ a ∧ a < s.dst.toNat + s.len.toNat) := of_decide_eq_false ha
  apply readMem_writeMem_other
  rw [addrAt_eq (by omega)]
  omega

theorem readMem_rngInitStep_outside : readMem (rngInitStep s).mem a = readMem s.mem a := by
  rcases rngInitStep_cases s with e | ⟨-, -, e⟩ | ⟨-, -, e⟩ | ⟨-, e⟩ <;> rw [e]
  · exact readMem_finishRng_outside (s := takeInitResponse .ready s) hfit ha
  · rfl
  · exact readMem_settledMem_outside (c := rngRecipe) (s := takeInitResponse .fatal s) hfit ha

theorem readMem_rngWaitStep_outside : readMem (rngWaitStep s).mem a = readMem s.mem a := by
  rcases rngWaitStep_cases s with ⟨-, e⟩ | ⟨ho, ⟨v, -, ⟨-, e⟩ | ⟨-, e⟩ | e⟩ | ⟨-, e⟩ | e⟩ <;> rw [e]
  · exact readMem_finishRng_outside hfit ha
  · rw [readMem_finishRng_outside (s := storeRandom v s) hfit ha, readMem_storeRandom_outside hfit ha v ho]
  · exact readMem_storeRandom_outside hfit ha v ho
  · exact readMem_settledMem_outside (c := rngRecipe) hfit ha
  · rfl

end

theorem readMem_rngDelayStep (s : State) (a : Nat) : readMem (rngDelayStep s).mem a = readMem s.mem a := by
  rcases rngDelayStep_cases s with e | ⟨-, e⟩ <;> rw [e] <;> rfl

/-- No engine step writes outside the command's output range (20_memory.md R201). -/
theorem readMem_exec_outside {i : Instr} {s t : State} {a : Nat} (hp : s.eng.phase ≠ .idle)
    (h : exec i s = .next t) (hfit : s.dst.toNat + (recipeOf i).outLen s.len.toNat ≤ 2 ^ 32)
    (ha : inOutput (recipeOf i) s a = false) : readMem t.mem a = readMem s.mem a := by
  rcases (exec_running hp h).2 with ⟨-, -, rfl⟩ | ⟨rfl, -, rfl⟩ | ⟨rfl, -, rfl⟩ | ⟨rfl, -, rfl⟩
  · exact readMem_runSteps_outside hfit ha _
  · exact readMem_rngInitStep_outside hfit ha
  · exact readMem_rngWaitStep_outside hfit ha
  · exact readMem_rngDelayStep s a

/-- Settles O39: SameRegisters and KEY by `engineStep_exec`, rng.init and memory by the lemmas above. -/
theorem engineStepFrame : Obligations.EngineStepFrame := by
  unfold Obligations.EngineStepFrame
  intro i s t hp h hfit
  have ⟨hsame, hout⟩ := engineStep_exec hp h
  exact ⟨hsame.cmd, hsame.cfg, hsame.src, hsame.dst, hsame.len, hsame.ctr, hsame.irqEn, hsame.nonce, hsame.ovr,
    hsame.platform, hsame.agenda, hsame.later, hsame.rdata, hsame.mdata,
    hout.imp (fun h => h.1) (fun h => h.1), fun hq => rngInit_exec hp hq h,
    fun a ha => readMem_exec_outside hp h hfit ha⟩

/-- Settles O41: a run of a + b + 2 units splits after the first a + 1, and the granularity named has no part. -/
theorem granularityIsUnobservable : Obligations.GranularityIsUnobservable := by
  unfold Obligations.GranularityIsUnobservable
  intro i s a b hi hp hr
  have hexec : ∀ (u : State) (g : Nat), u.eng.phase = .run → runs i u = true →
      exec i { u with grain := g } = .next { runSteps (recipeOf i) (g + 1) u with grain := g } := fun u g hpu hru => by
    rw [exec_eq_perform hi, perform_run (by exact hpu) (by exact hru), runSteps_grain]
  have hsplit : runSteps (recipeOf i) (a + b + 1 + 1) s
      = runSteps (recipeOf i) (b + 1) (runSteps (recipeOf i) (a + 1) s) := by
    rw [← runSteps_split, show a + 1 + (b + 1) = a + b + 1 + 1 by omega]
  refine ⟨_, _, hexec s a hp hr, hexec s (a + b + 1) hp hr, fun ht => ?_, fun ht => ?_⟩ <;>
    rw [hsplit]
  · obtain ⟨-, hgo | hend⟩ := runSteps_effect i (a + 1) s hp
    · exact hexec (runSteps (recipeOf i) (a + 1) s) b ht (by simpa only [runs, hgo.op, hgo.var] using hr)
    · rw [show ({ runSteps (recipeOf i) (a + 1) s with grain := a } : State).eng = Eng.zero from hend.eng] at ht
      cases ht
  · rw [runSteps_stopped (s := runSteps (recipeOf i) (a + 1) s) ht]

end Sys2Proof.Machine

/-! ### Proofs: the host's register block -/

namespace Sys2Proof.Machine

/-! #### Where an access lands (10_state.md R102, R103) -/

/-- No register at an offset that is no multiple of 4, reserved, or beyond NONCE3 (R104). -/
theorem regAt_none {off : Nat} (h : off % 4 ≠ 0 ∨ (0x24 ≤ off ∧ off ≤ 0x3C) ∨ 0x70 ≤ off) : regAt off = none := by
  rw [regAt]
  iterate 11 rw [if_neg (by omega)]

/-- Only word offsets below 0x70 hold a register. -/
theorem regAt_some {off : Nat} {r : Reg} (h : regAt off = some r) : off % 4 = 0 ∧ off < 0x70 := by
  by_contra hbad
  rw [regAt_none (by omega)] at h
  cases h

/-- CMD has one offset. -/
theorem regAt_eq_cmd {off : Nat} (h : regAt off = some .cmd) : off = 0x04 := by
  by_contra hne
  simp [regAt, hne, ite_eq_iff] at h

theorem regAt_key {k : Nat} (h : k < 8) : regAt (0x40 + 4 * k) = some (.key ⟨k, h⟩) := by
  have h0 : ∀ n, n < 0x40 → ¬ 0x40 + 4 * k = n := by omega
  have hk : (0x40 + 4 * k - 0x40) / 4 = k := by omega
  have hr : 0x40 ≤ 0x40 + 4 * k ∧ 0x40 + 4 * k < 0x60 ∧ (0x40 + 4 * k) % 4 = 0 := by omega
  simp only [regAt, h0, reduceIte, hr, hk, and_self, Fin.ofNat, Nat.mod_eq_of_lt h, Nat.reduceLT]

theorem regAt_nonce {k : Nat} (h : k < 4) : regAt (0x60 + 4 * k) = some (.nonce ⟨k, h⟩) := by
  have h0 : ∀ n, n < 0x60 → ¬ 0x60 + 4 * k = n := by omega
  have hk : (0x60 + 4 * k - 0x60) / 4 = k := by omega
  have hr : ¬ (0x60 + 4 * k < 0x60) ∧ 0x60 ≤ 0x60 + 4 * k ∧ 0x60 + 4 * k < 0x70 ∧ (0x60 + 4 * k) % 4 = 0 := by omega
  simp only [regAt, h0, reduceIte, hr, hk, and_self, false_and, and_false, Fin.ofNat, Nat.mod_eq_of_lt h,
    Nat.reduceLT]

section
variable (s : State) {off : Nat}

theorem touchesBlock_at {size : Nat} (ho : off < 256) (hs : 0 < size) :
    touchesBlock s (s.platform.baseAddr + off) size = true := by
  simp only [touchesBlock, decide_eq_true_eq]
  omega

theorem accessLegal_at {size : Nat} :
    accessLegal s (s.platform.baseAddr + off) size = decide (size = 4 ∧ off % 4 = 0) := by
  simp [accessLegal]

/-- A word of the block can be accessed. -/
theorem wordAccess_at (hm : off % 4 = 0) (ho : off < 256) :
    touchesBlock s (s.platform.baseAddr + off) 4 = true ∧ accessLegal s (s.platform.baseAddr + off) 4 = true
      ∧ regOf s (s.platform.baseAddr + off) = regAt off :=
  ⟨touchesBlock_at s ho (by decide), by rw [accessLegal_at, hm]; rfl, by rw [regOf, Nat.add_sub_cancel_left]⟩

/-- A register read of a word of the block (R103, R104, R119). -/
theorem hostRegRead_at (hm : off % 4 = 0) (ho : off < 256) :
    hostRegRead (s.platform.baseAddr + off) 4 s
      = .next { s with rdata := ((regAt off).map (readReg · s)).getD 0 } := by
  obtain ⟨ht, hl, hr⟩ := wordAccess_at s hm ho
  simp only [hostRegRead, ht, hl, hr, if_true]
  cases regAt off <;> rfl

theorem hostRegRead_reg {r : Reg} (h : regAt off = some r) :
    hostRegRead (s.platform.baseAddr + off) 4 s = .next { s with rdata := readReg r s } := by
  obtain ⟨hm, ho⟩ := regAt_some h
  rw [hostRegRead_at s hm (by omega), h]
  rfl

/-- A register write of a word of the block that holds no register (R104). -/
theorem hostRegWrite_reserved (v : Word) (hm : off % 4 = 0) (ho : off < 256) (h : regAt off = none) :
    hostRegWrite (s.platform.baseAddr + off) 4 v s = .next s := by
  obtain ⟨ht, hl, hr⟩ := wordAccess_at s hm ho
  simp only [hostRegWrite, ht, hl, hr, h, if_true]

/-- A register write of a word of the block, CMD apart (R103, R118). -/
theorem hostRegWrite_reg {r : Reg} (v : Word) (h : regAt off = some r) (hr : r ≠ .cmd) :
    hostRegWrite (s.platform.baseAddr + off) 4 v s = .next (writeReg r v s) := by
  obtain ⟨hm, ho⟩ := regAt_some h
  obtain ⟨ht, hl, hof⟩ := wordAccess_at s hm (by omega)
  simp only [hostRegWrite, ht, hl, hof, h, if_true]

/-- A register write of CMD (R105). -/
theorem hostRegWrite_cmd (v : Word) :
    hostRegWrite (s.platform.baseAddr + 0x04) 4 v s = writeCmd v s := by
  obtain ⟨ht, hl, hr⟩ := wordAccess_at s (off := 0x04) rfl (by decide)
  have hcmd : regAt 0x04 = some .cmd := rfl
  simp only [hostRegWrite, ht, hl, hr, hcmd, if_true]

end

/-! #### What an access can do -/

/-- A register read changes nothing but the value returned (R119). -/
theorem hostRegRead_next {s t : State} {addr size : Nat} (h : hostRegRead addr size s = .next t) :
    t = { s with rdata := t.rdata } := by
  unfold hostRegRead at h
  repeat' split at h
  all_goals cases h <;> rfl

/-- A register write leaves the state, writes a register, or is the write of a word to CMD. -/
theorem hostRegWrite_next {s t : State} {addr size : Nat} {v : Word} (h : hostRegWrite addr size v s = .next t) :
    t = s ∨ (∃ r, t = writeReg r v s)
      ∨ (Move.regWrite addr size v = commandMove s v ∧ writeCmd v s = .next t) := by
  unfold hostRegWrite at h
  split at h
  · split at h
    · rename_i hlegal
      split at h
      · rename_i hr
        have hoff := regAt_eq_cmd hr
        simp only [accessLegal, decide_eq_true_eq] at hlegal
        refine .inr (.inr ⟨?_, h⟩)
        rw [commandMove, hlegal.1, show addr = s.platform.baseAddr + 4 by omega]
      · exact .inr (.inl ⟨_, by cases h; rfl⟩)
      · exact .inl (by cases h; rfl)
    · cases h
  · exact .inl (by cases h; rfl)

/-- The parameter registers: those whose writes are lost while a command runs (R118), CMD apart. -/
def isParameter : Reg → Bool
  | .id | .cmd | .status | .irqEn => false
  | .cfg | .src | .dst | .len | .ctr | .key _ | .nonce _ => true

theorem writeReg_busy {r : Reg} (v : Word) {s : State} (hr : isParameter r = true) (hb : s.status.busy = true) :
    writeReg r v s = setOvr s := by
  cases r <;> simp_all [isParameter, writeReg]

theorem writeReg_notBusy {r : Reg} (v : Word) {s : State} (hr : isParameter r = true) (hb : s.status.busy = false) :
    writeReg r v s = storeParameter r v s := by
  cases r <;> simp_all [isParameter, writeReg]

/-- What a write of a register other than CMD can do (R104, R107, R109, R110, R118). -/
theorem writeReg_cases (r : Reg) (v : Word) (s : State) :
    writeReg r v s = s ∨ writeReg r v s = acknowledge v s ∨ writeReg r v s = { s with irqEn := v &&& irqMask }
      ∨ (s.status.busy = true ∧ writeReg r v s = setOvr s)
      ∨ (s.status.busy = false ∧ writeReg r v s = storeParameter r v s) := by
  cases hp : isParameter r with
  | true =>
    cases hb : s.status.busy with
    | true => exact .inr (.inr (.inr (.inl ⟨rfl, writeReg_busy v hp hb⟩)))
    | false => exact .inr (.inr (.inr (.inr ⟨rfl, writeReg_notBusy v hp hb⟩)))
  | false =>
    cases r
    case id | cmd => exact .inl rfl
    case status => exact .inr (.inl rfl)
    case irqEn => exact .inr (.inr (.inl rfl))
    all_goals cases hp

/-- A read of no register looks at KEY, at the engine or at memory (R116, R131). -/
theorem readReg_secrets (r : Reg) (s : State) (key : Vector Word 8) (eng : Eng) (mem : Memory) :
    readReg r { s with key := key, eng := eng, mem := mem } = readReg r s := by
  cases r <;> rfl

/-- The word offsets of CFG, SRC, DST, LEN, CTR, KEY and NONCE hold parameter registers. -/
theorem regAt_parameter {off : Nat} (hm : off % 4 = 0)
    (h : (0x0C ≤ off ∧ off ≤ 0x1C) ∨ (0x40 ≤ off ∧ off ≤ 0x6C)) :
    ∃ r, regAt off = some r ∧ isParameter r = true := by
  have hoff : off = 0x0C ∨ off = 0x10 ∨ off = 0x14 ∨ off = 0x18 ∨ off = 0x1C
      ∨ off = 0x40 + 4 * ((off - 0x40) / 4) ∧ (off - 0x40) / 4 < 8
      ∨ off = 0x60 + 4 * ((off - 0x60) / 4) ∧ (off - 0x60) / 4 < 4 := by omega
  rcases hoff with rfl | rfl | rfl | rfl | rfl | ⟨hk, hlt⟩ | ⟨hk, hlt⟩
  case inr.inr.inr.inr.inr.inl => rw [hk]; exact ⟨_, regAt_key hlt, rfl⟩
  case inr.inr.inr.inr.inr.inr => rw [hk]; exact ⟨_, regAt_nonce hlt, rfl⟩
  all_goals exact ⟨_, rfl, rfl⟩

/-! #### The obligations on the register block -/

/-- Settles O7: no register read looks at the secrets, and KEY reads 0. -/
theorem secretsAreNotReadable : Obligations.SecretsAreNotReadable := by
  unfold Obligations.SecretsAreNotReadable
  refine ⟨fun s t addr size key eng mem h => ?_, fun s k hk => ?_⟩
  · unfold hostRegRead at h ⊢
    rw [show touchesBlock { s with key := key, eng := eng, mem := mem } = touchesBlock s from rfl,
      show accessLegal { s with key := key, eng := eng, mem := mem } = accessLegal s from rfl,
      show regOf { s with key := key, eng := eng, mem := mem } = regOf s from rfl]
    split at h
    · rw [if_pos ‹_›]
      split at h
      · rw [if_pos ‹_›]
        split at h <;> cases h
        · simp only [readReg_secrets]
        · rfl
      · cases h
    · rw [if_neg ‹_›]
      cases h
      rfl
  · rw [Nat.add_assoc, hostRegRead_reg s (regAt_key hk)]
    rfl

/-- Settles O8: no register stands at such an offset. -/
theorem reservedOffsetsReadZeroIgnoreWrites : Obligations.ReservedOffsetsReadZeroIgnoreWrites := by
  unfold Obligations.ReservedOffsetsReadZeroIgnoreWrites
  intro s off v hm h
  have hnone : regAt off = none := regAt_none (by omega)
  refine ⟨?_, hostRegWrite_reserved s v hm (by omega) hnone⟩
  rw [hostRegRead_at s hm (by omega), hnone]
  rfl

/-- Settles O12: a parameter register's write is lost, IRQ_EN's and ID's are as ever. -/
theorem busyWritesOnlySetOvr : Obligations.BusyWritesOnlySetOvr := by
  unfold Obligations.BusyWritesOnlySetOvr
  intro s off v hb hm
  refine ⟨?_, ?_, ?_⟩
  · rintro (rfl | h)
    · rw [hostRegWrite_cmd, writeCmd, if_pos hb]
      rfl
    · obtain ⟨r, hr, hp⟩ := regAt_parameter hm h
      rw [hostRegWrite_reg s v hr (by rintro rfl; cases hp), writeReg_busy v hp hb]
      rfl
  · rintro rfl
    exact hostRegWrite_reg s v (r := .irqEn) rfl (by decide)
  · rintro rfl
    exact hostRegWrite_reg s v (r := .id) rfl (by decide)

/-- Settles O6: `hostRegRead_next`. -/
theorem registerReadHasNoSideEffect : Obligations.RegisterReadHasNoSideEffect := by
  unfold Obligations.RegisterReadHasNoSideEffect
  exact fun _ _ _ _ => hostRegRead_next

/-- Settles O9: such an access touches the block and is not legal. -/
theorem narrowOrMisalignedAccessRefused : Obligations.NarrowOrMisalignedAccessRefused := by
  unfold Obligations.NarrowOrMisalignedAccessRefused
  intro s off size v ho hs hbad
  have hlegal : accessLegal s (s.platform.baseAddr + off) size = false := by
    rw [accessLegal_at, decide_eq_false_iff_not]
    omega
  simp only [hostRegRead, hostRegWrite, touchesBlock_at s ho hs, hlegal, if_true, Bool.false_eq_true, if_false,
    and_self]

/-- Settles O10: the write is `acknowledge`. -/
theorem statusWriteClearsByOnes : Obligations.StatusWriteClearsByOnes := by
  unfold Obligations.StatusWriteClearsByOnes
  intro s v
  have hclear : ∀ f b : Bool, (f && !b) = if b then false else f := by decide
  exact ⟨acknowledge v s, hostRegWrite_reg s v (r := .status) rfl (by decide), hclear _ _, hclear _ _, rfl,
    hclear _ _, rfl⟩

/-- Settles O13: each offset holds a parameter register, or ID or IRQ_EN. -/
theorem idleWritesStore : Obligations.IdleWritesStore := by
  unfold Obligations.IdleWritesStore
  intro s v hb
  have hstore : ∀ {off : Nat} {r : Reg}, regAt off = some r → isParameter r = true →
      hostRegWrite (s.platform.baseAddr + off) 4 v s = .next (storeParameter r v s) := fun {off r} hr hp => by
    rw [hostRegWrite_reg s v hr (by rintro rfl; cases hp), writeReg_notBusy v hp hb]
  refine ⟨hostRegWrite_reg s v (r := .id) rfl (by decide), hstore (r := .cfg) rfl rfl, hstore (r := .src) rfl rfl,
    hstore (r := .dst) rfl rfl, hstore (r := .len) rfl rfl, hstore (r := .ctr) rfl rfl,
    hostRegWrite_reg s v (r := .irqEn) rfl (by decide), fun k => ?_, fun k => ?_⟩
  · rw [Nat.add_assoc]
    exact hstore (regAt_key k.isLt) rfl
  · rw [Nat.add_assoc]
    exact hstore (regAt_nonce k.isLt) rfl

/-- Settles O14: each offset holds the register named. -/
theorem readsReturnRegisters : Obligations.ReadsReturnRegisters := by
  unfold Obligations.ReadsReturnRegisters
  intro s
  refine ⟨hostRegRead_reg s (r := .id) rfl, hostRegRead_reg s (r := .cmd) rfl, hostRegRead_reg s (r := .cfg) rfl,
    hostRegRead_reg s (r := .src) rfl, hostRegRead_reg s (r := .dst) rfl, hostRegRead_reg s (r := .len) rfl,
    hostRegRead_reg s (r := .ctr) rfl, hostRegRead_reg s (r := .irqEn) rfl, fun k => ?_⟩
  rw [Nat.add_assoc]
  exact hostRegRead_reg s (regAt_nonce k.isLt)

/-- The low byte of STATUS (R106). -/
def flagsByte (fatal ovr err done busy : Bool) : BitVec 8 :=
  0#3 ++ BitVec.ofBool fatal ++ BitVec.ofBool ovr ++ BitVec.ofBool err ++ BitVec.ofBool done ++ BitVec.ofBool busy

theorem flagsByte_layout : ∀ fatal ovr err done busy : Bool,
    let w := flagsByte fatal ovr err done busy
    w.getLsbD 0 = busy ∧ w.getLsbD 1 = done ∧ w.getLsbD 2 = err ∧ w.getLsbD 3 = ovr ∧ w.getLsbD 4 = fatal
      ∧ ∀ j, j < 3 → w.getLsbD (5 + j) = false := by decide

/-- The bits of STATUS: the flags below bit 8, then ERRCODE (R106). -/
theorem getLsbD_statusWord (s : State) (k : Nat) :
    (statusWord s).getLsbD k
      = if k < 8 then (flagsByte (efatal s) s.status.ovr s.status.err s.status.done s.status.busy).getLsbD k
        else s.status.errcode.getLsbD (k - 8) := by
  have h : statusWord s
      = 0#16 ++ s.status.errcode ++ flagsByte (efatal s) s.status.ovr s.status.err s.status.done s.status.busy := rfl
  rw [h, BitVec.getLsbD_append, BitVec.getLsbD_append, BitVec.getLsbD_zero]
  split
  · rfl
  · split
    · rfl
    · rw [BitVec.getLsbD_of_ge _ _ (by omega)]

/-- Settles O11: the low byte by its layout, ERRCODE and the zeros above it bit by bit. -/
theorem statusWordLayout : Obligations.StatusWordLayout := by
  unfold Obligations.StatusWordLayout
  intro s
  obtain ⟨hbusy, hdone, herr, hovr, hfatal, hzero⟩ :=
    flagsByte_layout (efatal s) s.status.ovr s.status.err s.status.done s.status.busy
  refine ⟨(getLsbD_statusWord s 0).trans hbusy, (getLsbD_statusWord s 1).trans hdone,
    (getLsbD_statusWord s 2).trans herr, (getLsbD_statusWord s 3).trans hovr, ?_, ?_, ?_, ?_,
    hostRegRead_reg s (r := .status) rfl⟩
  · rw [(getLsbD_statusWord s 4).trans hfatal, efatal, beq_iff_eq]
  · ext j hj
    rw [BitVec.getElem_extractLsb', getLsbD_statusWord, if_pos (by omega), hzero j hj]
    exact (BitVec.getElem_zero hj).symm
  · ext j hj
    rw [BitVec.getElem_extractLsb', getLsbD_statusWord, if_neg (by omega), Nat.add_sub_cancel_left,
      BitVec.getLsbD_eq_getElem]
  · ext j hj
    rw [BitVec.getElem_extractLsb', getLsbD_statusWord, if_neg (by omega), BitVec.getLsbD_of_ge _ _ (by omega)]
    exact (BitVec.getElem_zero hj).symm

end Sys2Proof.Machine

/-! ### Proofs: the moves of the agents, and what they leave of a running command -/

namespace Sys2Proof.Machine

/-! #### What a move can do -/

/-- A memory read by the host changes the value returned and the count of draws, nothing else. -/
theorem hostMemRead_next {s t : State} {a : Word} {maintained : Bool} (h : hostMemRead a maintained s = .next t) :
    t = { s with mdata := t.mdata, draws := t.draws } := by
  unfold hostMemRead at h
  repeat' split at h
  all_goals cases h <;> rfl

/-- A memory write by the host changes the byte and may mark the running command (20_memory.md R223(b)). -/
theorem hostMemWrite_next {s t : State} {a : Word} {b : Byte} {maintained : Bool}
    (h : hostMemWrite a b maintained s = .next t) :
    t = { s with
      mem := writeMem s.mem a.toNat b
      eng := { s.eng with spoiled := s.eng.spoiled || inRunningRanges s a.toNat } } := by
  unfold hostMemWrite at h
  split at h
  · cases h
    rfl
  · cases h

/-- An engine move is no move with the engine idle; else it is `exec` of the running command. -/
theorem engineMove_next {s t : State} {g : Nat} (h : engineMove g s = .next t) :
    (s.eng.phase = .idle ∧ t = s)
      ∨ (s.eng.phase ≠ .idle ∧ ∃ i, runningCommand s = some i ∧ exec i { s with grain := g } = .next t) := by
  unfold engineMove at h
  split at h
  · exact .inl ⟨‹_›, by cases h; rfl⟩
  all_goals
    rename_i hp
    split at h
    · exact .inr ⟨by rw [hp]; decide, _, ‹_›, h⟩
    · cases h

/-- A response is held in the port for the request it answers, or changes nothing (47_rng.md R660, R661). -/
theorem deliver_cases (r : Response) (s : State) :
    deliver r s = s
      ∨ ∃ q, s.rng.req = some q ∧ answers q r = true
        ∧ deliver r s = { s with rng := { s.rng with req := none, resp := some r } } := by
  unfold deliver
  split
  · rename_i q hq
    cases ha : answers q r with
    | true => exact .inr ⟨q, hq, ha, rfl⟩
    | false => exact .inl rfl
  · exact .inl rfl

/-- Reset is that of the registers, over the memory the abandoned command leaves (70_reset_and_hazards.md R800,
R801). -/
theorem hostReset_cases (s : State) :
    (runningCommand s = none ∧ hostReset s = resetCore s)
      ∨ ∃ i, runningCommand s = some i ∧ hostReset s = resetCore (settle (recipeOf i) s) := by
  unfold hostReset
  cases runningCommand s with
  | none => exact .inl ⟨rfl, rfl⟩
  | some i => exact .inr ⟨i, rfl, rfl⟩

/-! #### A running command and the other agents -/

/-- What the moves of the host and of the entropy source leave alone while a command runs: BUSY, the registers the
command reads, and the engine but for the mark of a host write. -/
structure LeavesCommand (s t : State) : Prop where
  cmd : t.cmd = s.cmd
  cfg : t.cfg = s.cfg
  src : t.src = s.src
  dst : t.dst = s.dst
  len : t.len = s.len
  ctr : t.ctr = s.ctr
  nonce : t.nonce = s.nonce
  key : t.key = s.key
  busy : t.status.busy = s.status.busy
  eng : t.eng = { s.eng with spoiled := t.eng.spoiled }

theorem LeavesCommand.refl (s : State) : LeavesCommand s s := ⟨rfl, rfl, rfl, rfl, rfl, rfl, rfl, rfl, rfl, rfl⟩

theorem leavesCommand_writeReg (r : Reg) (v : Word) {s : State} (hb : s.status.busy = true) :
    LeavesCommand s (writeReg r v s) := by
  rcases writeReg_cases r v s with e | e | e | ⟨-, e⟩ | ⟨hn, -⟩
  case inr.inr.inr.inr => rw [hb] at hn; cases hn
  all_goals rw [e]; constructor <;> rfl

/-- A write to CMD is lost while a command runs (R118). -/
theorem writeCmd_busy (v : Word) {s : State} (hb : s.status.busy = true) : writeCmd v s = .next (setOvr s) :=
  if_pos hb

/-- Every move but the engine's and reset leaves a running command alone (R118, 70_reset_and_hazards.md R820). -/
theorem leavesCommand_act {m : Move} {s t : State} (hb : s.status.busy = true) (he : ∀ g, m ≠ .engine g)
    (hr : m ≠ .reset) (h : act m s = .next t) : LeavesCommand s t := by
  cases m with
  | regRead addr size => rw [hostRegRead_next h]; constructor <;> rfl
  | regWrite addr size v =>
    rcases hostRegWrite_next h with rfl | ⟨r, rfl⟩ | ⟨-, hw⟩
    · exact .refl _
    · exact leavesCommand_writeReg r v hb
    · rw [writeCmd_busy v hb] at hw
      cases hw
      constructor <;> rfl
  | memRead a maintained => rw [hostMemRead_next h]; constructor <;> rfl
  | memWrite a b maintained => rw [hostMemWrite_next h]; constructor <;> rfl
  | engine g => exact absurd rfl (he g)
  | entropy r =>
    cases h
    rcases deliver_cases r s with e | ⟨q, -, -, e⟩ <;> rw [e] <;> constructor <;> rfl
  | lateEntropy r => cases h; exact .refl _
  | reset => exact absurd rfl hr

/-- An engine move with BUSY = 1 steps the running command, or there is none and it changes nothing. -/
theorem engineStep_engineMove {g : Nat} {s t : State} (h : engineMove g s = .next t) :
    (s.eng.phase = .idle ∧ t = s) ∨ (s.eng.phase ≠ .idle ∧ EngineStep { s with grain := g } t) := by
  rcases engineMove_next h with hidle | ⟨hp, i, -, hi⟩
  · exact .inl hidle
  · exact .inr ⟨hp, engineStep_exec (by exact hp) hi⟩

/-- A reset leaves the registers of R150. -/
theorem hostReset_eq_resetCore (s : State) : ∃ u, hostReset s = resetCore u := by
  rcases hostReset_cases s with ⟨-, e⟩ | ⟨i, -, e⟩ <;> exact ⟨_, e⟩

/-- What a move does to a command that runs: the command is left alone, or the engine steps it, or reset abandons
it. -/
theorem act_busy {m : Move} {s t : State} (hb : s.status.busy = true) (h : act m s = .next t) :
    LeavesCommand s t ∨ (∃ g, s.eng.phase ≠ .idle ∧ EngineStep { s with grain := g } t) ∨ ∃ u, t = resetCore u := by
  by_cases he : ∃ g, m = .engine g
  · obtain ⟨g, rfl⟩ := he
    rcases engineStep_engineMove h with ⟨-, rfl⟩ | hstep
    · exact .inl (.refl _)
    · exact .inr (.inl ⟨g, hstep⟩)
  by_cases hr : m = .reset
  · subst hr
    obtain ⟨u, hu⟩ := hostReset_eq_resetCore s
    cases h
    exact .inr (.inr ⟨u, hu⟩)
  · exact .inl (leavesCommand_act hb (fun g hg => he ⟨g, hg⟩) hr h)

/-- With the engine idle a move leaves it idle, or is the host's write of a word to CMD (R140). -/
theorem act_idle {m : Move} {s t : State} (hp : s.eng.phase = .idle) (h : act m s = .next t) :
    t.eng.phase = .idle ∨ ∃ v, m = commandMove s v := by
  cases m with
  | regRead addr size => rw [hostRegRead_next h]; exact .inl hp
  | regWrite addr size v =>
    rcases hostRegWrite_next h with rfl | ⟨r, rfl⟩ | ⟨hcmd, -⟩
    · exact .inl hp
    · left
      rcases writeReg_cases r v s with e | e | e | ⟨-, e⟩ | ⟨-, e⟩ <;> rw [e]
      case inr.inr.inr.inr => cases r <;> exact hp
      all_goals exact hp
    · exact .inr ⟨v, hcmd⟩
  | memRead a maintained => rw [hostMemRead_next h]; exact .inl hp
  | memWrite a b maintained => rw [hostMemWrite_next h]; exact .inl hp
  | engine g =>
    rcases engineMove_next h with ⟨-, rfl⟩ | ⟨hn, -⟩
    · exact .inl hp
    · exact absurd hp hn
  | entropy r =>
    cases h
    rcases deliver_cases r s with e | ⟨q, -, -, e⟩ <;> rw [e] <;> exact .inl hp
  | lateEntropy r => cases h; exact .inl hp
  | reset =>
    obtain ⟨u, hu⟩ := hostReset_eq_resetCore s
    cases h
    exact .inl (by rw [hu]; rfl)

/-! #### The obligations on moves -/

/-- Settles O42: the move that clears BUSY is an engine step that ends the command, or reset. -/
theorem completionClearsKeyAndEngine : Obligations.CompletionClearsKeyAndEngine := by
  unfold Obligations.CompletionClearsKeyAndEngine
  intro s t hb h hdone
  rcases act_busy (s := takeMove s) hb h with hleft | ⟨g, -, hstep⟩ | ⟨u, rfl⟩
  · rw [hleft.busy, takeMove_status, hb] at hdone
    cases hdone
  · rcases hstep.outcome with ⟨-, hst⟩ | ⟨hk, heng, -⟩
    · rw [hst] at hdone
      exact absurd hdone (by simp [hb])
    · exact ⟨hk, heng⟩
  · exact ⟨rfl, rfl⟩

/-- Settles O43: a move that keeps BUSY leaves the command alone, or is an engine step that does not end it. -/
theorem operandsStableWhileBusy : Obligations.OperandsStableWhileBusy := by
  unfold Obligations.OperandsStableWhileBusy
  intro s t hb _ h hbusy
  rcases act_busy (s := takeMove s) hb h with hleft | ⟨g, -, ⟨hsame, hout⟩⟩ | ⟨u, rfl⟩
  · exact ⟨hleft.cmd, hleft.cfg, hleft.src, hleft.dst, hleft.len, hleft.ctr, hleft.nonce, hleft.key⟩
  · rcases hout with ⟨hk, -⟩ | ⟨-, -, hend⟩
    · exact ⟨hsame.cmd, hsame.cfg, hsame.src, hsame.dst, hsame.len, hsame.ctr, hsame.nonce, hk⟩
    · rw [hend] at hbusy
      cases hbusy
  · cases hbusy

/-- Settles O45: with the engine idle every move but a CMD write leaves the phase. -/
theorem onlyCmdWriteLeavesIdle : Obligations.OnlyCmdWriteLeavesIdle := by
  unfold Obligations.OnlyCmdWriteLeavesIdle
  intro s t hp h ht
  rcases act_idle (s := takeMove s) hp h with hstay | ⟨v, hm⟩
  · exact absurd hstay ht
  · exact ⟨v, hm⟩

/-- Settles O4: the CMD write by `act_commandMove`, the engine's move by its definition. -/
theorem stepRunsDecodedCommand : Obligations.StepRunsDecodedCommand := by
  unfold Obligations.StepRunsDecodedCommand
  refine ⟨fun s v i hb hm hd => ?_, fun s g i hp hm hr => ?_, fun s m rest ha => ?_⟩
  · rw [step, hm]
    refine (act_commandMove (s := takeMove s) hb v).trans ?_
    rw [hd]
  · rw [step, hm]
    have hr' : runningCommand (takeMove s) = some i := hr
    cases hq : s.eng.phase with
    | idle => exact absurd hq hp
    | run | rngInit | rngWait | rngDelay => simp only [act, engineMove, takeMove_eng, hq, hr']
  · exact ⟨by simp [nextMove, ha], by simp [takeMove, ha]⟩

end Sys2Proof.Machine

/-! ### Proofs: every step keeps the invariant -/

namespace Sys2Proof.Machine

/-! #### The part of the invariant that does not speak of the engine -/

/-- ERR = 0 implies ERRCODE = 0, and ERRCODE is in range (10_state.md R106; 60_exceptions.md R703). -/
def FlagsFit (f : Status) : Prop := (f.err = false → f.errcode = 0) ∧ f.errcode.toNat ≤ 9

theorem flagsFit_openFlags (f : Status) : FlagsFit (openFlags f) := ⟨fun _ => rfl, Nat.zero_le 9⟩

theorem flagsFit_errorFlags (c : ErrCode) (f : Status) : FlagsFit (errorFlags c f) :=
  ⟨fun h => (by cases h), by rw [errorFlags_errcode]; cases c <;> decide⟩

theorem flagsFit_doneFlags {f : Status} (h : FlagsFit f) : FlagsFit (doneFlags f) := h

theorem flagsFit_writeOneToClear (v : Word) {f : Status} (h : FlagsFit f) : FlagsFit (writeOneToClear v f) := by
  obtain ⟨herr, hcode⟩ := h
  cases hv : v.getLsbD 2 <;> simp only [FlagsFit, writeOneToClear, hv]
  · exact ⟨by simpa using herr, by simpa using hcode⟩
  · exact ⟨fun _ => rfl, Nat.zero_le 9⟩

/-- What the invariant asks of memory, the registers, the flags and the platform. -/
structure Sound (s : State) : Prop where
  mem : s.mem.wf = true
  cfg : s.cfg &&& ~~~cfgMask = 0
  irqEn : s.irqEn &&& ~~~irqMask = 0
  flags : FlagsFit s.status
  delay : 0 < s.platform.retryDelay

theorem Invariant.sound {s : State} (h : Invariant s) : Sound s :=
  ⟨h.mem, h.cfg, h.irqEn, ⟨h.noErr, h.code⟩, h.retry.1⟩

/-- The bits a mask takes away are 0. -/
theorem masked_and_not (v m : Word) : v &&& m &&& ~~~m = 0 := by
  simp [BitVec.and_assoc]

section
variable {s : State} (h : Sound s)
include h

theorem Sound.openCommand (w : Word) : Sound (openCommand w s) :=
  ⟨h.mem, h.cfg, h.irqEn, flagsFit_openFlags _, h.delay⟩

theorem Sound.complete : Sound (complete s) :=
  ⟨h.mem, h.cfg, h.irqEn, flagsFit_doneFlags h.flags, h.delay⟩

theorem Sound.raiseError (c : ErrCode) : Sound (raiseError c s) :=
  ⟨h.mem, h.cfg, h.irqEn, flagsFit_errorFlags c _, h.delay⟩

theorem Sound.settle (c : Recipe) : Sound (settle c s) :=
  ⟨wf_settledMem c h.mem, h.cfg, h.irqEn, h.flags, h.delay⟩

theorem Sound.freeOutput (c : Recipe) : Sound (freeOutput c s) :=
  ⟨wf_freeOutput c h.mem, h.cfg, h.irqEn, h.flags, h.delay⟩

theorem Sound.storeRandom (v : Byte) : Sound (storeRandom v s) :=
  ⟨wf_storeRandom v h.mem, h.cfg, h.irqEn, h.flags, h.delay⟩

theorem Sound.takeInitResponse (outcome : RngInit) : Sound (takeInitResponse outcome s) :=
  ⟨h.mem, h.cfg, h.irqEn, h.flags, h.delay⟩

theorem Sound.storeParameter (r : Reg) (v : Word) : Sound (storeParameter r v s) := by
  cases r
  case cfg =>
    exact ⟨h.mem, masked_and_not v cfgMask, h.irqEn, h.flags, h.delay⟩
  all_goals exact ⟨h.mem, h.cfg, h.irqEn, h.flags, h.delay⟩

end

/-! #### A machine at rest -/

/-- No command runs, and no trace of one is left (10_state.md R132, 60_exceptions.md R710). -/
structure Resting (s : State) : Prop where
  eng : s.eng = Eng.zero
  busy : s.status.busy = false
  req : s.rng.req = none
  resp : s.rng.resp = none

theorem Invariant.resting {s : State} (h : Invariant s) (hp : s.eng.phase = .idle) : Resting s := by
  have hport := h.port
  rw [portConsistent, hp] at hport
  exact ⟨h.idle hp, by simpa [hp] using h.busy, hport.1, hport.2⟩

/-- The invariant of a machine at rest is that of its memory, registers and flags. -/
theorem Sound.invariant {s : State} (h : Sound s) (hr : Resting s) : Invariant s := by
  have hp : s.eng.phase = .idle := by rw [hr.eng]; rfl
  have hbusy : ¬ s.status.busy = true := by simp [hr.busy]
  have hnot : ∀ {p : Phase}, p ≠ .idle → ¬ s.eng.phase = p := fun hne he => hne (he.symm.trans hp)
  exact {
    mem := h.mem
    cfg := h.cfg
    irqEn := h.irqEn
    busy := ⟨fun hb => absurd hb hbusy, fun hn => absurd hp hn⟩
    busyOpen := fun hb => absurd hb hbusy
    noErr := h.flags.1
    code := h.flags.2
    idle := fun _ => hr.eng
    command := fun hn => absurd hp hn
    off := fun hn => absurd hn (hnot (by decide))
    rngOff := fun hn => by rcases hn with hn | hn | hn <;> exact absurd hn (hnot (by decide))
    rngInit := ⟨fun hn => absurd hn (hnot (by decide)),
      fun hn => by rcases hn with hn | hn <;> exact absurd hn (hnot (by decide))⟩
    retry := ⟨h.delay, fun hn => absurd hn (hnot (by decide))⟩
    port := by rw [portConsistent, hp]; exact ⟨hr.req, hr.resp⟩ }

theorem invariant_complete {s : State} (h : Sound s) : Invariant (complete s) :=
  h.complete.invariant ⟨rfl, rfl, rfl, rfl⟩

theorem invariant_raiseError (c : ErrCode) {s : State} (h : Sound s) : Invariant (raiseError c s) :=
  (h.raiseError c).invariant ⟨rfl, rfl, rfl, rfl⟩

theorem invariant_failRunning (c : Recipe) (e : ErrCode) {s : State} (h : Sound s) :
    Invariant (failRunning c e s) := invariant_raiseError e (h.settle c)

theorem invariant_finishRng {s : State} (h : Sound s) : Invariant (finishRng s) := by
  rcases finishRng_cases s with ⟨-, e⟩ | ⟨-, e⟩ <;> rw [e]
  · exact invariant_complete (h.freeOutput rngRecipe)
  · exact invariant_complete h

theorem invariant_resetCore {s : State} (h : Sound s) : Invariant (resetCore s) :=
  Sound.invariant ⟨h.mem, BitVec.zero_and, BitVec.zero_and, ⟨fun _ => rfl, Nat.zero_le 9⟩, h.delay⟩ ⟨rfl, rfl, rfl, rfl⟩

theorem invariant_hostReset {s : State} (h : Sound s) : Invariant (hostReset s) := by
  rcases hostReset_cases s with ⟨-, e⟩ | ⟨i, -, e⟩ <;> rw [e]
  · exact invariant_resetCore h
  · exact invariant_resetCore (h.settle _)

/-- A word that is no command ends in an error completion (30_encoding.md R302; 60_exceptions.md R710). -/
theorem invariant_rejectWord (w : Word) (r : Reject) {s : State} (h : Sound s) : Invariant (rejectWord w r s) := by
  cases r <;> exact invariant_raiseError _ (h.openCommand w)

/-! #### A machine that runs a command -/

/-- The engine runs command `i`, which passed its checks, under open flags (60_exceptions.md R705). -/
structure Running (i : Instr) (s : State) : Prop where
  runs : runs i s = true
  check : checkCommand (recipeOf i) s = none
  busy : s.status.busy = true
  done : s.status.done = false
  err : s.status.err = false

/-- The engine runs at most one command. -/
theorem runs_unique {i j : Instr} {s : State} (hp : s.eng.phase ≠ .idle) (hi : runs i s = true)
    (hj : runs j s = true) : i = j :=
  Option.some.inj ((runningCommand_of_runs hp hi).symm.trans (runningCommand_of_runs hp hj))

theorem Invariant.running {i : Instr} {s : State} (h : Invariant s) (hp : s.eng.phase ≠ .idle)
    (hr : Machine.runs i s = true) : Running i s := by
  obtain ⟨j, hj, -, hcheck⟩ := h.command hp
  obtain rfl := runs_unique hp hr hj
  have hbusy := h.busy.mpr hp
  obtain ⟨hdone, herr⟩ := h.busyOpen hbusy
  exact ⟨hr, hcheck, hbusy, hdone, herr⟩

/-- The invariant of a machine that runs a command, from what its phase asks. -/
theorem Running.invariant {i : Instr} {s : State} (h : Running i s) (hs : Sound s) (hp : s.eng.phase ≠ .idle)
    (hrun : s.eng.phase = .run ↔ i ≠ .rng) (hout : s.eng.phase = .run → s.eng.out.length = s.eng.off)
    (hoff : inRngPhase s → s.eng.under.length = s.eng.off ∧ s.eng.off ≤ s.len.toNat)
    (hinit : (s.eng.phase = .rngInit → s.rng.init = .uninit)
      ∧ (s.eng.phase = .rngWait ∨ s.eng.phase = .rngDelay → s.rng.init = .ready))
    (hretry : s.eng.phase = .rngDelay → 0 < s.eng.retry) (hport : portConsistent s) : Invariant s where
  mem := hs.mem
  cfg := hs.cfg
  irqEn := hs.irqEn
  busy := ⟨fun _ => hp, fun _ => h.busy⟩
  busyOpen := fun _ => ⟨h.done, h.err⟩
  noErr := hs.flags.1
  code := hs.flags.2
  idle := fun hn => absurd hn hp
  command := fun _ => ⟨i, h.runs, hrun, h.check⟩
  off := hout
  rngOff := hoff
  rngInit := hinit
  retry := ⟨hs.delay, hretry⟩
  port := hport

/-- The invariant of a machine in phase RUN. -/
theorem Running.invariant_run {i : Instr} {s : State} (h : Running i s) (hs : Sound s) (hp : s.eng.phase = .run)
    (hi : i ≠ .rng) (hout : s.eng.out.length = s.eng.off) (hreq : s.rng.req = none) (hresp : s.rng.resp = none) :
    Invariant s := by
  have hnot : ∀ {p : Phase}, p ≠ .run → ¬ s.eng.phase = p := fun hne he => hne (he.symm.trans hp)
  refine h.invariant hs (hnot (by decide)) ⟨fun _ => hi, fun _ => hp⟩ (fun _ => hout) (fun hn => ?_)
    ⟨fun hn => absurd hn (hnot (by decide)), fun hn => ?_⟩ (fun hn => absurd hn (hnot (by decide))) ?_
  · rcases hn with hn | hn | hn <;> exact absurd hn (hnot (by decide))
  · rcases hn with hn | hn <;> exact absurd hn (hnot (by decide))
  · rw [portConsistent, hp]
    exact ⟨hreq, hresp⟩

/-- The invariant of a machine in a phase of rng. -/
theorem Running.invariant_rng {s : State} (h : Running .rng s) (hs : Sound s) (hp : inRngPhase s)
    (hoff : s.eng.under.length = s.eng.off ∧ s.eng.off ≤ s.len.toNat)
    (hinit : (s.eng.phase = .rngInit → s.rng.init = .uninit)
      ∧ (s.eng.phase = .rngWait ∨ s.eng.phase = .rngDelay → s.rng.init = .ready))
    (hretry : s.eng.phase = .rngDelay → 0 < s.eng.retry) (hport : portConsistent s) : Invariant s := by
  have hne : s.eng.phase ≠ .idle := by rcases hp with hp | hp | hp <;> rw [hp] <;> decide
  have hrun : s.eng.phase ≠ .run := by rcases hp with hp | hp | hp <;> rw [hp] <;> decide
  exact h.invariant hs hne ⟨fun hn => absurd hn hrun, fun hn => absurd rfl hn⟩ (fun hn => absurd hn hrun)
    (fun _ => hoff) hinit hretry hport

/-! #### Moves that leave the running command alone -/

/-- A command goes on running where its registers, the engine and the entropy port are left alone and no flag but
OVR is set. -/
theorem Running.of_leavesCommand {i : Instr} {s t : State} (h : Running i s) (hl : LeavesCommand s t)
    (hrng : t.rng = s.rng) (hdone : t.status.done = true → s.status.done = true)
    (herr : t.status.err = true → s.status.err = true) : Running i t := by
  obtain ⟨hruns, hcheck, hbusy, hd, he⟩ := h
  refine ⟨?_, ?_, hl.busy.trans hbusy, ?_, ?_⟩
  · rw [Machine.runs, hl.eng]
    exact hruns
  · rw [checkCommand_congr hl.cfg hl.src hl.dst hl.len (.inr (by rw [hrng])), hcheck]
  · exact Bool.eq_false_iff.mpr fun ht => by rw [hdone ht] at hd; cases hd
  · exact Bool.eq_false_iff.mpr fun ht => by rw [herr ht] at he; cases he

/-- OVR, a cleared DONE or ERR, IRQ_EN, memory, the mark of a host write and the fields that only record or schedule
have no part in what the invariant asks of a running command. -/
theorem Invariant.of_leavesCommand {s t : State} (h : Invariant s) (hs : Sound t) (hl : LeavesCommand s t)
    (hrng : t.rng = s.rng) (hidle : s.eng.phase = .idle → t.eng = s.eng)
    (hdone : t.status.done = true → s.status.done = true) (herr : t.status.err = true → s.status.err = true) :
    Invariant t := by
  by_cases hp : s.eng.phase = .idle
  · obtain ⟨heng, hbusy, hreq, hresp⟩ := h.resting hp
    exact hs.invariant ⟨(hidle hp).trans heng, hl.busy.trans hbusy, by rw [hrng, hreq], by rw [hrng, hresp]⟩
  · obtain ⟨i, hruns, hrun, -⟩ := h.command hp
    have hphase : t.eng.phase = s.eng.phase := by rw [hl.eng]
    have hoff : t.eng.off = s.eng.off := by rw [hl.eng]
    refine ((h.running hp hruns).of_leavesCommand hl hrng hdone herr).invariant hs ?_ ?_ ?_ ?_ ?_ ?_ ?_
    · rwa [hphase]
    · rwa [hphase]
    · rw [hl.eng]
      exact h.off
    · rw [inRngPhase, hphase, hl.eng, hl.len]
      exact h.rngOff
    · rw [hphase, hrng]
      exact h.rngInit
    · rw [hl.eng]
      exact h.retry.2
    · rw [portConsistent, hphase, hrng, hoff, hl.len]
      exact h.port

theorem Invariant.records {s : State} (h : Invariant s) (agenda : List Move) (later : Later) (grain : Nat)
    (rdata : Word) (mdata : Byte) (draws : Nat) :
    Invariant { s with
      agenda := agenda, later := later, grain := grain, rdata := rdata, mdata := mdata, draws := draws } :=
  h.of_leavesCommand ⟨h.mem, h.cfg, h.irqEn, h.sound.flags, h.retry.1⟩ (by constructor <;> rfl) rfl
    (fun _ => rfl) id id

theorem Invariant.setOvr {s : State} (h : Invariant s) : Invariant (setOvr s) :=
  h.of_leavesCommand ⟨h.mem, h.cfg, h.irqEn, h.sound.flags, h.retry.1⟩ (by constructor <;> rfl) rfl
    (fun _ => rfl) id id

theorem Invariant.acknowledge (v : Word) {s : State} (h : Invariant s) : Invariant (acknowledge v s) := by
  have hflags := flagsFit_writeOneToClear v h.sound.flags
  refine h.of_leavesCommand ⟨h.mem, h.cfg, h.irqEn, hflags, h.retry.1⟩ (by constructor <;> rfl) rfl
    (fun _ => rfl) ?_ ?_ <;>
    simp +contextual

theorem Invariant.setIrqEn (v : Word) {s : State} (h : Invariant s) :
    Invariant { s with irqEn := v &&& irqMask } :=
  h.of_leavesCommand ⟨h.mem, h.cfg, masked_and_not v irqMask, h.sound.flags, h.retry.1⟩ (by constructor <;> rfl) rfl
    (fun _ => rfl) id id

/-- A parameter register is written only with the engine idle (R118). -/
theorem Invariant.storeParameter (r : Reg) (v : Word) {s : State} (h : Invariant s) (hb : s.status.busy = false) :
    Invariant (storeParameter r v s) := by
  have hp : s.eng.phase = .idle := by
    by_contra hn
    rw [h.busy.mpr hn] at hb
    cases hb
  obtain ⟨heng, hbusy, hreq, hresp⟩ := h.resting hp
  apply (h.sound.storeParameter r v).invariant
  cases r <;> exact ⟨heng, hbusy, hreq, hresp⟩

theorem Invariant.writeReg (r : Reg) (v : Word) {s : State} (h : Invariant s) : Invariant (writeReg r v s) := by
  rcases writeReg_cases r v s with e | e | e | ⟨-, e⟩ | ⟨hb, e⟩ <;> rw [e]
  · exact h
  · exact h.acknowledge v
  · exact h.setIrqEn v
  · exact h.setOvr
  · exact h.storeParameter r v hb

/-- A host write to memory marks a command only where one runs (20_memory.md R223(b)). -/
theorem Invariant.hostMemWrite {s t : State} {a : Word} {b : Byte} {maintained : Bool} (h : Invariant s)
    (hw : hostMemWrite a b maintained s = .next t) : Invariant t := by
  rw [hostMemWrite_next hw]
  refine h.of_leavesCommand ⟨wf_writeMem b a.isLt h.mem, h.cfg, h.irqEn, h.sound.flags, h.retry.1⟩
    (by constructor <;> rfl) rfl (fun hp => ?_) id id
  have hin : inRunningRanges s a.toNat = false := by rw [inRunningRanges, runningCommand_idle hp]
  simp [hin]

/-- A response is taken only for the request the phase issued (47_rng.md R660, R661). -/
theorem Invariant.deliver (r : Response) {s : State} (h : Invariant s) : Invariant (deliver r s) := by
  rcases deliver_cases r s with e | ⟨q, hq, ha, e⟩ <;> rw [e]
  · exact h
  refine ⟨h.mem, h.cfg, h.irqEn, h.busy, h.busyOpen, h.noErr, h.code, h.idle, h.command, h.off, h.rngOff, h.rngInit,
    h.retry, ?_⟩
  have hport := h.port
  unfold portConsistent at hport ⊢
  dsimp only
  split at hport <;> rename_i hp
  case h_1 =>
    rcases hport with ⟨hreq, -⟩ | ⟨hreq, -⟩ <;> rw [hq] at hreq <;> cases hreq
    refine .inr ⟨rfl, ?_⟩
    cases r <;> first | exact .inl rfl | exact .inr rfl | cases ha
  case h_2 =>
    split at hport
    · rename_i hlt
      rcases hport with ⟨hreq, -⟩ | ⟨hreq, -⟩ <;> rw [hq] at hreq <;> cases hreq
      rw [if_pos hlt]
      exact .inr ⟨rfl, r, rfl, ha⟩
    · rw [hq] at hport
      cases hport.1
  all_goals
    rw [hq] at hport
    cases hport.1

/-! #### The phases of rng -/

/-- Entering RNG_WAIT keeps the invariant: the request is issued with it (47_rng.md R665; log 10). -/
theorem Running.invariant_enterWait {s : State} (h : Running .rng s) (hs : Sound s)
    (hoff : s.eng.under.length = s.eng.off ∧ s.eng.off ≤ s.len.toNat) (hinit : s.rng.init = .ready) :
    Invariant (enterWait s) := by
  refine Running.invariant_rng ⟨h.runs, h.check, h.busy, h.done, h.err⟩
    ⟨hs.mem, hs.cfg, hs.irqEn, hs.flags, hs.delay⟩ (.inr (.inl rfl)) hoff
    ⟨fun hn => (by cases hn), fun _ => hinit⟩ (fun hn => by cases hn) ?_
  simp only [portConsistent, enterWait]
  split <;> simp

section
variable {s : State} (h : Invariant s) (hr : runs .rng s = true)
include h hr

theorem Invariant.rngInitStep (hp : s.eng.phase = .rngInit) : Invariant (rngInitStep s) := by
  have hrun := h.running (by rw [hp]; decide) hr
  have huninit := h.rngInit.1 hp
  rcases rngInitStep_cases s with e | ⟨-, -, e⟩ | ⟨-, -, e⟩ | ⟨-, e⟩ <;> rw [e]
  · exact h
  · exact invariant_finishRng (h.sound.takeInitResponse .ready)
  · refine Running.invariant_enterWait ⟨hr, ?_, hrun.busy, hrun.done, hrun.err⟩ (h.sound.takeInitResponse .ready)
      (h.rngOff (.inl hp)) rfl
    have hfatal : RngInit.ready = .fatal ↔ s.rng.init = .fatal := by rw [huninit]; decide
    have hcheck : checkCommand rngRecipe (takeInitResponse .ready s) = checkCommand rngRecipe s :=
      checkCommand_congr rfl rfl rfl rfl (.inr hfatal)
    exact hcheck.trans hrun.check
  · exact invariant_failRunning _ _ (h.sound.takeInitResponse .fatal)

theorem Invariant.rngWaitStep (hp : s.eng.phase = .rngWait) : Invariant (rngWaitStep s) := by
  have hrun := h.running (by rw [hp]; decide) hr
  have hready := h.rngInit.2 (.inl hp)
  obtain ⟨hunder, hle⟩ := h.rngOff (.inr (.inl hp))
  rcases rngWaitStep_cases s with ⟨-, e⟩ | ⟨hlt, ⟨v, -, ⟨-, e⟩ | ⟨-, e⟩ | e⟩ | ⟨hresp, e⟩ | e⟩ <;> rw [e]
  · exact invariant_finishRng h.sound
  · exact invariant_finishRng (h.sound.storeRandom v)
  · refine Running.invariant_enterWait ⟨hr, hrun.check, hrun.busy, hrun.done, hrun.err⟩ (h.sound.storeRandom v)
      ⟨?_, ?_⟩ hready
    · simp [hunder]
    · exact hlt
  · exact invariant_failRunning _ _ h.sound
  · refine Running.invariant_rng ⟨hr, hrun.check, hrun.busy, hrun.done, hrun.err⟩ ?_ (.inr (.inr rfl)) ⟨hunder, hle⟩
      ⟨fun hn => (by cases hn), fun _ => hready⟩ (fun _ => h.retry.1) ?_
    · exact ⟨h.mem, h.cfg, h.irqEn, h.sound.flags, h.retry.1⟩
    · have hport := h.port
      rw [portConsistent, hp, if_pos hlt, hresp] at hport
      rcases hport with ⟨-, hnone⟩ | ⟨hreq, -⟩
      · cases hnone
      · exact ⟨hreq, rfl⟩
  · exact h

theorem Invariant.rngDelayStep (hp : s.eng.phase = .rngDelay) : Invariant (rngDelayStep s) := by
  have hrun := h.running (by rw [hp]; decide) hr
  have hready := h.rngInit.2 (.inr hp)
  have hoff := h.rngOff (.inr (.inr hp))
  rcases rngDelayStep_cases s with e | ⟨hlt, e⟩ <;> rw [e]
  · exact hrun.invariant_enterWait h.sound hoff hready
  · refine Running.invariant_rng ⟨hr, hrun.check, hrun.busy, hrun.done, hrun.err⟩
      ⟨h.mem, h.cfg, h.irqEn, h.sound.flags, h.retry.1⟩ (.inr (.inr hp)) hoff h.rngInit (fun _ => hlt) h.port

end

/-! #### The other commands -/

/-- A unit leaves the flags, or sets those of a completion (60_exceptions.md R710, R711). -/
theorem flagsFit_runSteps (c : Recipe) (k : Nat) {s : State} (h : FlagsFit s.status) :
    FlagsFit (runSteps c k s).status := by
  refine runSteps_keeps (P := fun t => FlagsFit t.status) (fun t _ ht => ?_) k s h
  rcases runStep_cases c t with ⟨-, e⟩ | ⟨-, -, -, e⟩ | ⟨-, -, -, e⟩ | ⟨-, e⟩ <;> rw [e]
  · exact ht
  · exact ht
  · rcases finish_cases c (t.eng.out.take (c.outLen t.len.toNat)) t with ⟨-, e⟩ | ⟨-, e⟩ <;> rw [e] <;>
      exact flagsFit_doneFlags ht
  · exact flagsFit_errorFlags _ _

theorem Invariant.runSteps {i : Instr} {s : State} (h : Invariant s) (hi : i ≠ .rng) (hr : runs i s = true)
    (hp : s.eng.phase = .run) (k : Nat) : Invariant (runSteps (recipeOf i) k s) := by
  have hrun := h.running (by rw [hp]; decide) hr
  have hport := h.port
  rw [portConsistent, hp] at hport
  obtain ⟨hsame, hout⟩ := runSteps_effect i k s hp
  have hsound : Sound (Machine.runSteps (recipeOf i) k s) :=
    ⟨wf_runSteps _ k h.mem, by rw [hsame.cfg]; exact h.cfg, by rw [hsame.irqEn]; exact h.irqEn,
      flagsFit_runSteps _ k h.sound.flags, by rw [hsame.platform]; exact h.retry.1⟩
  rcases hout with hgo | hend
  · refine Running.invariant_run (i := i) ⟨?_, ?_, ?_, ?_, ?_⟩ hsound (hgo.phase.trans hp) hi (hgo.out (h.off hp)) ?_ ?_
    · rw [Machine.runs, hgo.op, hgo.var]
      exact hr
    · rw [checkCommand_congr hsame.cfg hsame.src hsame.dst hsame.len (.inr (by rw [hgo.rng])), hrun.check]
    · rw [hgo.status, hrun.busy]
    · rw [hgo.status, hrun.done]
    · rw [hgo.status, hrun.err]
    · rw [hgo.rng, hport.1]
    · rw [hgo.rng, hport.2]
  · exact hsound.invariant ⟨hend.eng, hend.busy, by rw [hend.rng], by rw [hend.rng]⟩

/-! #### Acceptance -/

/-- A command that passed its checks is latched with open flags (60_exceptions.md R705). -/
theorem running_latch (i : Instr) (s : State) (hc : checkCommand (recipeOf i) s = none) :
    Running i (latch i (openCommand (encode i) s)) :=
  ⟨by simp [runs], hc, rfl, rfl, rfl⟩

theorem Sound.latch {s : State} (h : Sound s) (i : Instr) : Sound (latch i s) :=
  ⟨h.mem, h.cfg, h.irqEn, h.flags, h.delay⟩

theorem Invariant.enterRun {i : Instr} {s : State} (h : Invariant s) (hp : s.eng.phase = .idle) (hi : i ≠ .rng)
    (hc : checkCommand (recipeOf i) s = none) :
    Invariant (enterRun (Machine.latch i (Machine.openCommand (encode i) s))) := by
  obtain ⟨hruns, hcheck, hbusy, hdone, herr⟩ := running_latch i s hc
  have hsound := (h.sound.openCommand (encode i)).latch i
  exact Running.invariant_run ⟨hruns, hcheck, hbusy, hdone, herr⟩
    ⟨hsound.mem, hsound.cfg, hsound.irqEn, hsound.flags, hsound.delay⟩ rfl hi rfl (h.resting hp).req (h.resting hp).resp

theorem Invariant.enterRng {s : State} (h : Invariant s) (hc : checkCommand rngRecipe s = none) :
    Invariant (enterRng (Machine.latch .rng (Machine.openCommand (encode .rng) s))) := by
  have hrun := running_latch .rng s hc
  have hsound := (h.sound.openCommand (encode .rng)).latch .rng
  have hfatal := not_fatal_of_check hc
  unfold Machine.enterRng
  split
  · rename_i hinit
    exact Running.invariant_rng ⟨hrun.runs, hrun.check, hrun.busy, hrun.done, hrun.err⟩
      ⟨hsound.mem, hsound.cfg, hsound.irqEn, hsound.flags, hsound.delay⟩ (.inl rfl) ⟨rfl, Nat.zero_le _⟩
      ⟨fun _ => hinit, fun hn => by rcases hn with hn | hn <;> cases hn⟩ (fun hn => by cases hn)
      (.inl ⟨rfl, rfl⟩)
  · exact hrun.invariant_enterWait hsound ⟨rfl, Nat.zero_le _⟩ ‹_›
  · exact absurd ‹_› hfatal

theorem Invariant.exec_idle {i : Instr} {s t : State} (h : Invariant s) (hp : s.eng.phase = .idle)
    (hx : exec i s = .next t) : Invariant t := by
  rw [Machine.exec_idle i hp] at hx
  rcases accept_cases i (recipeOf i) (if i = .rng then Machine.enterRng else Machine.enterRun) s with
    ⟨e, -, ha⟩ | ⟨-, ha⟩ | ⟨-, ha⟩ | ⟨hc, ha⟩ <;> rw [ha] at hx <;> cases hx
  · exact invariant_raiseError e (h.sound.openCommand _)
  · by_cases hi : i = .rng
    · subst hi
      exact h.enterRng hc
    · rw [if_neg hi]
      exact h.enterRun hp hi hc

/-- Every meaning of a command keeps the invariant. -/
theorem Invariant.exec {i : Instr} {s t : State} (h : Invariant s) (hx : exec i s = .next t) : Invariant t := by
  by_cases hp : s.eng.phase = .idle
  · exact h.exec_idle hp hx
  obtain ⟨hr, ⟨hi, hp, rfl⟩ | ⟨rfl, hp, rfl⟩ | ⟨rfl, hp, rfl⟩ | ⟨rfl, hp, rfl⟩⟩ := exec_running hp hx
  · exact h.runSteps hi hr hp _
  · exact h.rngInitStep hr hp
  · exact h.rngWaitStep hr hp
  · exact h.rngDelayStep hr hp

/-! #### The step -/

theorem Invariant.writeCmd {v : Word} {s t : State} (h : Invariant s) (hw : writeCmd v s = .next t) : Invariant t := by
  unfold Machine.writeCmd at hw
  split at hw
  · cases hw
    exact h.setOvr
  · split at hw
    · exact h.exec hw
    · cases hw
      exact invariant_rejectWord v _ h.sound

theorem Invariant.engineMove {g : Nat} {s t : State} (h : Invariant s) (hm : engineMove g s = .next t) :
    Invariant t := by
  rcases engineMove_next hm with ⟨-, rfl⟩ | ⟨-, i, -, hx⟩
  · exact h
  · exact (h.records s.agenda s.later g s.rdata s.mdata s.draws).exec hx

/-- Every move of every agent keeps the invariant. -/
theorem Invariant.act {m : Move} {s t : State} (h : Invariant s) (ha : act m s = .next t) : Invariant t := by
  cases m with
  | regRead addr size => rw [hostRegRead_next ha]; exact h.records _ _ _ _ _ _
  | regWrite addr size v =>
    rcases hostRegWrite_next ha with rfl | ⟨r, rfl⟩ | ⟨-, hw⟩
    · exact h
    · exact h.writeReg r v
    · exact h.writeCmd hw
  | memRead a maintained => rw [hostMemRead_next ha]; exact h.records _ _ _ _ _ _
  | memWrite a b maintained => exact h.hostMemWrite ha
  | engine g => exact h.engineMove ha
  | entropy r => cases ha; exact h.deliver r
  | lateEntropy r => cases ha; exact h
  | reset => cases ha; exact invariant_hostReset h.sound

/-- Settles O56: taking a move touches only the schedule, and every move keeps the invariant. -/
theorem stepKeepsInvariant : Obligations.StepKeepsInvariant := by
  unfold Obligations.StepKeepsInvariant
  intro s t h hstep
  exact (h.records _ _ s.grain s.rdata s.mdata s.draws : Invariant (takeMove s)).act hstep

/-- Settles O57: the reset state is at rest. -/
theorem resetMeetsInvariant : Obligations.ResetMeetsInvariant :=
  Sound.invariant ⟨wf_reset, by decide, by decide, ⟨fun _ => rfl, by decide⟩, by decide⟩ ⟨rfl, rfl, rfl, rfl⟩

/-- Settles O51: the fields of State.reset, and the words computed from them. -/
theorem resetState : Obligations.ResetState := by
  unfold Obligations.ResetState
  exact ⟨rfl, by decide, rfl, rfl, rfl, rfl, rfl, rfl, rfl, by decide, by decide, rfl, rfl, rfl, by decide⟩

end Sys2Proof.Machine

/-! ### Proofs: the bytes of words, and how far the units of each command get -/

namespace Sys2Proof.Machine

/-! #### Bytes of words (40_codec.md R401 to R403) -/

@[simp] theorem length_leBytes : ∀ w v : Nat, (leBytes w v).length = w
  | 0, _ => rfl
  | w + 1, v => by rw [leBytes, List.length_cons, length_leBytes w]

@[simp] theorem length_beBytes (w v : Nat) : (beBytes w v).length = w := by
  rw [beBytes, List.length_reverse, length_leBytes]

@[simp] theorem length_bytesLE {n : Nat} (ws : List (BitVec n)) : (bytesLE ws).length = ws.length * (n / 8) := by
  simp [bytesLE, List.length_flatMap]

@[simp] theorem length_bytesBE {n : Nat} (ws : List (BitVec n)) : (bytesBE ws).length = ws.length * (n / 8) := by
  simp [bytesBE, List.length_flatMap]

@[simp] theorem length_groups (w : Nat) : ∀ (count : Nat) (bs : List Byte), (groups w count bs).length = count
  | 0, _ => rfl
  | count + 1, bs => by rw [groups, List.length_cons, length_groups w count]

@[simp] theorem length_wordsLE (n count : Nat) (bs : List Byte) : (wordsLE n count bs).length = count := by
  simp [wordsLE]

@[simp] theorem length_wordsBE (n count : Nat) (bs : List Byte) : (wordsBE n count bs).length = count := by
  simp [wordsBE]

@[simp] theorem length_xorBytes (a b : List Byte) : (xorBytes a b).length = min a.length b.length := by
  simp [xorBytes]

/-- Byte `j` of a value, the least significant first (R401). -/
theorem getElem?_leBytes : ∀ {w j : Nat} (v : Nat), j < w →
    (leBytes w v)[j]? = some (BitVec.ofNat 8 (v / 256 ^ j))
  | w + 1, 0, v, _ => by simp [leBytes]
  | w + 1, j + 1, v, h => by
    rw [leBytes, List.getElem?_cons_succ, getElem?_leBytes _ (by omega), Nat.div_div_eq_div_mul, Nat.pow_succ']

/-- Byte `j` of a word is its bits 8j+7 .. 8j. -/
theorem ofNat_div_eq_extractLsb' {n : Nat} (v : BitVec n) (j : Nat) :
    BitVec.ofNat 8 (v.toNat / 256 ^ j) = v.extractLsb' (8 * j) 8 := by
  apply BitVec.eq_of_toNat_eq
  rw [BitVec.extractLsb'_toNat, BitVec.toNat_ofNat, Nat.shiftRight_eq_div_pow, Nat.pow_mul]

/-- Byte `i` of the words is byte `i mod 4` of word `i div 4`, for words of 32 bits (R403; 10_state.md R115). -/
theorem getElem?_bytesLE : ∀ (ws : List Word) (i : Nat) (h : i / 4 < ws.length),
    (bytesLE ws)[i]? = some (ws[i / 4].extractLsb' (8 * (i % 4)) 8)
  | w :: ws, i, h => by
    have hcons : bytesLE (w :: ws) = leBytes 4 w.toNat ++ bytesLE ws := rfl
    rw [hcons]
    by_cases hi : i < 4
    · rw [List.getElem?_append_left (by simpa using hi), getElem?_leBytes _ hi, ofNat_div_eq_extractLsb']
      simp [Nat.div_eq_of_lt hi, Nat.mod_eq_of_lt hi]
    · obtain ⟨k, rfl⟩ := Nat.exists_eq_add_of_le' (Nat.le_of_not_lt hi)
      have hk : (k + 4) / 4 = k / 4 + 1 := by omega
      rw [List.getElem?_append_right (by simp), length_leBytes, Nat.add_sub_cancel,
        getElem?_bytesLE ws k (by simpa [hk] using h), Nat.add_mod_right]
      simp [hk]

/-- Settles O15: the operands are the bytes of the register words. -/
theorem keyAndNonceBytePacking : Obligations.KeyAndNonceBytePacking := by
  unfold Obligations.KeyAndNonceBytePacking
  intro s
  refine ⟨fun i h => ?_, fun i h => ?_, by simp [operandsOf, keyBytes], by simp [operandsOf, nonceBytes]⟩
  · rw [show (operandsOf s).key = bytesLE s.key.toList from rfl, getElem?_bytesLE _ _ (by simp; omega)]
    simp
  · rw [show (operandsOf s).nonce = bytesLE s.nonce.toList from rfl, getElem?_bytesLE _ _ (by simp; omega)]
    simp

/-! #### What a unit of each command appends -/

theorem length_writePair_32 (p : BitVec 32 × BitVec 32) : (writePair p).length = 8 := by simp [writePair]
theorem length_writePair_64 (p : BitVec 64 × BitVec 64) : (writePair p).length = 16 := by simp [writePair]

theorem blockBytes_cases (v : Variant) : blockBytes v = 8 ∨ blockBytes v = 16 := by cases v <;> decide

/-- A block under a variant's round keys has the variant's block size (42_block_cipher.md R490). -/
theorem length_encryptWith (v : Variant) (key block : List Byte) :
    (encryptWith v (roundKeys v key) block).length = blockBytes v := by
  unfold roundKeys
  split
  · rw [encryptWith, length_writePair_32, ‹blockBytes v = 8›]
  · rw [encryptWith, length_writePair_64, (blockBytes_cases v).resolve_left ‹_›]

theorem length_rabbitExtract (x : Vector Word 8) : (rabbitExtract x).length = 16 := by simp [rabbitExtract]

theorem length_chachaBlock (S : Vector Word 16) : (chachaBlock S).length = 64 := by simp [chachaBlock]

theorem length_trivBytes : ∀ (k : Nat) (t : Triv), (trivBytes k t).1.length = k
  | 0, _ => rfl
  | k + 1, t => by simp [trivBytes, length_trivBytes k]

theorem length_convert (d : Direction) (m : Mode) (bs : List Byte) : (convert d m 1 bs).length = modeBytes m := by
  cases d <;> cases m <;> simp [convert, modeBytes]

theorem length_shaDigest (H : Vector DWord 8) : (shaDigest H).length = 64 := by simp [shaDigest]

end Sys2Proof.Machine

/-! ### Proofs: every command but rng runs to its end, and what its output depends on -/

namespace Sys2Proof.Machine

/-! #### The families -/

/-- The commands by family (30_encoding.md R303): what holds of each family holds of every command. -/
theorem instr_byFamily {motive : Instr → Prop} (ctr : ∀ v, motive (ctrOf v)) (enc : ∀ v, motive (encOf v))
    (codec : ∀ d m, motive (codecOf d m)) (rabbit : motive .rabbit) (trivium : motive .trivium)
    (chacha20 : motive .chacha20) (sha512 : motive .sha512) (rng : motive .rng) (i : Instr) : motive i := by
  cases i
  exacts [ctr .speck64_96, ctr .speck64_128, ctr .speck128_128, ctr .speck128_192, ctr .speck128_256,
    ctr .simon64_96, ctr .simon64_128, ctr .simon128_128, ctr .simon128_192, ctr .simon128_256,
    enc .speck64_96, enc .speck64_128, enc .speck128_128, enc .speck128_192, enc .speck128_256,
    enc .simon64_96, enc .simon64_128, enc .simon128_128, enc .simon128_192, enc .simon128_256,
    rabbit, trivium, chacha20, sha512, rng,
    codec .b2w .le32, codec .b2w .le64, codec .b2w .be64, codec .w2b .le32, codec .w2b .le64, codec .w2b .be64]

/-! #### What the checks of acceptance leave (60_exceptions.md R706) -/

theorem toNat_add_le_of_rangeLegal {base : Word} {k : Nat} (h : rangeLegal base k = true) :
    base.toNat + k ≤ 2 ^ 32 := by
  simp only [rangeLegal, Bool.or_eq_true, beq_iff_eq, decide_eq_true_eq] at h
  have := base.isLt
  omega

/-- A command that passed its checks has a legal LEN and an output range below 2^32. -/
theorem checkCommand_none {c : Recipe} {s : State} (h : checkCommand c s = none) :
    c.lenOk s.len.toNat = true ∧ s.dst.toNat + c.outLen s.len.toNat ≤ 2 ^ 32 := by
  unfold checkCommand at h
  dsimp only at h
  split at h; · cases h
  split at h; · cases h
  split at h; · cases h
  split at h; · cases h
  rename_i hlen hrange
  simp only [Bool.or_eq_true, decide_eq_true_eq, not_or, Bool.not_eq_false] at hlen hrange
  exact ⟨hlen, toNat_add_le_of_rangeLegal hrange.2⟩

/-- A unit reads within the input range (20_memory.md R201). -/
theorem chunk_within (i : Instr) (n k : Nat) : ((recipeOf i).chunk n k).2 ≤ (recipeOf i).inLen n := by
  induction i using instr_byFamily with
  | ctr v => rw [recipeOf_ctrOf]; exact Nat.min_le_right _ _
  | enc v => rw [recipeOf_encOf]; exact Nat.le_refl _
  | codec d m => rw [recipeOf_codecOf]; exact Nat.min_le_right _ _
  | rabbit | chacha20 | sha512 => exact Nat.min_le_right _ _
  | trivium | rng => exact Nat.le_refl _

@[simp] theorem length_chunkBytes (c : Recipe) (s : State) (k : Nat) :
    (chunkBytes c s k).length = (c.chunk s.len.toNat k).2 - (c.chunk s.len.toNat k).1 := by simp [chunkBytes]

/-! #### How far the units get -/

/-- The command's units compute its whole output, none of them in vain (10_state.md R140; log 3). -/
structure ReachesEnd (i : Instr) (s : State) : Prop where
  missing : ∀ j, j < (recipeOf i).units s.len.toNat → (engineAfter i s j).off < (recipeOf i).outLen s.len.toNat
  all : (engineAfter i s ((recipeOf i).units s.len.toNat)).off = (recipeOf i).outLen s.len.toNat

theorem engineAfter_zero (i : Instr) (s : State) : (engineAfter i s 0).off = 0 ∧ (engineAfter i s 0).blk = 0 := by
  obtain ⟨-, -, -, -, -, -, hoff, hblk, -⟩ := (recipe_frame i (operandsOf s) Eng.zero []).1
  exact ⟨hoff, hblk⟩

/-- Units that each append the next block of `b` bytes, or what is left of it, come to the end of `n` bytes after
`q` of them, the first `q` that cover them. -/
theorem blocks_progress {i : Instr} {s : State} {b n q : Nat} (hlo : n ≤ b * q) (hhi : b * q < n + b)
    (hunit : ∀ j, j < q → (engineAfter i s j).blk = j → (engineAfter i s j).off = b * j →
      (engineAfter i s (j + 1)).blk = j + 1 ∧ (engineAfter i s (j + 1)).off = b * j + min b (n - b * j)) :
    (∀ j, j < q → (engineAfter i s j).blk = j ∧ (engineAfter i s j).off = b * j ∧ b * j < n)
      ∧ (engineAfter i s q).off = n := by
  have hlt : ∀ j, j < q → b * j + b < n + b := fun j hj => by
    have := Nat.mul_le_mul_left b (show j + 1 ≤ q from hj)
    rw [Nat.mul_succ] at this
    omega
  have hall : ∀ j, j ≤ q → (engineAfter i s j).blk = j ∧ (engineAfter i s j).off = min (b * j) n := by
    intro j
    induction j with
    | zero =>
      intro _
      obtain ⟨hoff, hblk⟩ := engineAfter_zero i s
      exact ⟨hblk, by simp [hoff]⟩
    | succ j ih =>
      intro hj
      obtain ⟨hblk, hoff⟩ := ih (by omega)
      have hjn := hlt j hj
      obtain ⟨hblk', hoff'⟩ := hunit j hj hblk (by omega)
      refine ⟨hblk', ?_⟩
      rw [hoff', Nat.mul_succ]
      omega
  refine ⟨fun j hj => ?_, ?_⟩
  · obtain ⟨hblk, hoff⟩ := hall j (by omega)
    have hjn := hlt j hj
    exact ⟨hblk, by omega, by omega⟩
  · rw [(hall q le_rfl).2]
    omega

/-- A command whose output has its LEN comes to its end block by block. -/
theorem reachesEnd_of_blocks {i : Instr} {s : State} {b : Nat} (hout : (recipeOf i).outLen s.len.toNat = s.len.toNat)
    (hlo : s.len.toNat ≤ b * (recipeOf i).units s.len.toNat)
    (hhi : b * (recipeOf i).units s.len.toNat < s.len.toNat + b)
    (hunit : ∀ j, j < (recipeOf i).units s.len.toNat → (engineAfter i s j).blk = j →
      (engineAfter i s j).off = b * j →
      (engineAfter i s (j + 1)).blk = j + 1
        ∧ (engineAfter i s (j + 1)).off = b * j + min b (s.len.toNat - b * j)) : ReachesEnd i s := by
  obtain ⟨hbefore, hend⟩ := blocks_progress hlo hhi hunit
  refine ⟨fun j hj => ?_, by rw [hend, hout]⟩
  obtain ⟨-, hoff, hlt⟩ := hbefore j hj
  rw [hoff, hout]
  exact hlt

/-- ceil(n / b) blocks cover n bytes, and no fewer do. -/
theorem ceilDiv_covers {b : Nat} (hb : 0 < b) (n : Nat) : n ≤ b * ceilDiv n b ∧ b * ceilDiv n b < n + b := by
  have hdiv := Nat.div_add_mod (n + b - 1) b
  have hmod := Nat.mod_lt (n + b - 1) hb
  rw [ceilDiv]
  omega

theorem div_covers {b n : Nat} (hb : 0 < b) (h : n % b = 0) : n ≤ b * (n / b) ∧ b * (n / b) < n + b := by
  have hdiv := Nat.div_add_mod n b
  omega

theorem blockBytes_pos (v : Variant) : 0 < blockBytes v := by cases v <;> decide
theorem modeBytes_pos (m : Mode) : 0 < modeBytes m := by cases m <;> decide

/-- eng.rk keeps the round keys of the initialisation (41_ctr_driver.md R431). -/
theorem engineAfter_ctr_rk (v : Variant) (s : State) :
    ∀ k, (engineAfter (ctrOf v) s k).rk = roundKeys v (variantKey v (operandsOf s))
  | 0 => by rw [engineAfter, unitsFrom, recipeOf_ctrOf]; rfl
  | k + 1 => by
    rw [engineAfter_succ, recipeOf_ctrOf]
    exact engineAfter_ctr_rk v s k

theorem reachesEnd_ctr (v : Variant) (s : State) : ReachesEnd (ctrOf v) s := by
  obtain ⟨hlo, hhi⟩ := ceilDiv_covers (blockBytes_pos v) s.len.toNat
  have hr := recipeOf_ctrOf v
  refine reachesEnd_of_blocks (b := blockBytes v) (by rw [hr]; rfl) (by rw [hr]; exact hlo) (by rw [hr]; exact hhi)
    fun j _ hblk hoff => ?_
  have hrk := engineAfter_ctr_rk v s j
  rw [engineAfter_succ, hr]
  refine ⟨congrArg (· + 1) hblk, ?_⟩
  simp only [ctrRecipe, ctrUnit, emit, length_xorBytes, length_chunkBytes, blockChunk, hrk, length_encryptWith, hblk,
    hoff]
  omega

theorem reachesEnd_chacha (s : State) : ReachesEnd .chacha20 s := by
  obtain ⟨hlo, hhi⟩ := ceilDiv_covers (b := 64) (by decide) s.len.toNat
  refine reachesEnd_of_blocks (b := 64) rfl hlo hhi fun j _ hblk hoff => ?_
  rw [engineAfter_succ]
  refine ⟨congrArg (· + 1) hblk, ?_⟩
  simp only [recipeOf, chachaRecipe, chachaUnit, emit, length_xorBytes, length_chunkBytes, blockChunk,
    length_chachaBlock, hblk, hoff]
  omega

theorem reachesEnd_rabbit {s : State} (hc : checkCommand (recipeOf .rabbit) s = none) : ReachesEnd .rabbit s := by
  have hmod : s.len.toNat % 16 = 0 := by simpa [recipeOf, rabbitRecipe] using (checkCommand_none hc).1
  obtain ⟨hlo, hhi⟩ := div_covers (by decide) hmod
  refine reachesEnd_of_blocks (b := 16) rfl hlo hhi fun j _ hblk hoff => ?_
  rw [engineAfter_succ]
  refine ⟨congrArg (· + 1) hblk, ?_⟩
  simp only [recipeOf, rabbitRecipe, rabbitUnit, emit, length_xorBytes, length_chunkBytes, blockChunk,
    length_rabbitExtract, hblk, hoff]
  omega

theorem reachesEnd_trivium (s : State) : ReachesEnd .trivium s := by
  obtain ⟨hlo, hhi⟩ := ceilDiv_covers (b := 8) (by decide) s.len.toNat
  refine reachesEnd_of_blocks (b := 8) rfl hlo hhi fun j _ hblk hoff => ?_
  rw [engineAfter_succ]
  refine ⟨congrArg (· + 1) hblk, ?_⟩
  simp only [recipeOf, triviumRecipe, triviumUnit, emit, List.length_take, length_trivBytes, operandsOf, hoff]
  omega

theorem reachesEnd_codec (d : Direction) (m : Mode) {s : State}
    (hc : checkCommand (recipeOf (codecOf d m)) s = none) : ReachesEnd (codecOf d m) s := by
  have hr := recipeOf_codecOf d m
  have hmod : s.len.toNat % modeBytes m = 0 := by
    rw [hr] at hc
    simpa [codecRecipe] using (checkCommand_none hc).1
  obtain ⟨hlo, hhi⟩ := div_covers (modeBytes_pos m) hmod
  refine reachesEnd_of_blocks (b := modeBytes m) (by rw [hr]; rfl) (by rw [hr]; exact hlo) (by rw [hr]; exact hhi)
    fun j hj hblk hoff => ?_
  rw [hr] at hj
  rw [engineAfter_succ, hr]
  refine ⟨congrArg (· + 1) hblk, ?_⟩
  simp only [codecRecipe, codecUnit, emit, length_convert, hoff]
  have hdiv := Nat.div_add_mod s.len.toNat (modeBytes m)
  have hle := Nat.mul_le_mul_left (modeBytes m) (show j + 1 ≤ s.len.toNat / modeBytes m from hj)
  rw [Nat.mul_succ] at hle
  omega

theorem reachesEnd_enc (v : Variant) (s : State) : ReachesEnd (encOf v) s := by
  have hr := recipeOf_encOf v
  obtain ⟨hoff, -⟩ := engineAfter_zero (encOf v) s
  have hunits : (recipeOf (encOf v)).units s.len.toNat = 1 := by rw [hr]; rfl
  have hout : (recipeOf (encOf v)).outLen s.len.toNat = blockBytes v := by rw [hr]; rfl
  refine ⟨fun j hj => ?_, ?_⟩
  · obtain rfl : j = 0 := by omega
    rw [hoff, hout]
    exact blockBytes_pos v
  · rw [hunits, hout, engineAfter_succ]
    have hrk : (engineAfter (encOf v) s 0).rk = roundKeys v (variantKey v (operandsOf s)) := by
      rw [engineAfter, unitsFrom, hr]
      rfl
    rw [hr]
    simp only [encRecipe, encUnit, emit, hoff, hrk, length_encryptWith, Nat.zero_add]

/-! #### sha512 (46_sha512.md R628, R629, R632) -/

theorem shaFinalBlocks_cases (L : Nat) :
    (L % 128 ≤ 111 ∧ shaFinalBlocks L = 1) ∨ (111 < L % 128 ∧ shaFinalBlocks L = 2) := by
  unfold shaFinalBlocks
  split <;> omega

/-- The final buffer has one block, or two (R628). -/
theorem length_shaPad {L : Nat} {tail : List Byte} (h : tail.length = L % 128) :
    (shaPad L tail).length = 128 * shaFinalBlocks L := by
  have hlt := Nat.mod_lt L (show 128 > 0 by decide)
  simp only [shaPad, List.length_append, List.length_cons, List.length_replicate, length_beBytes, h]
  rcases shaFinalBlocks_cases L with ⟨hle, e⟩ | ⟨hle, e⟩ <;> rw [e] <;> omega

/-- sha512 before its last unit: nothing is output yet, and once the final buffer is built, the blocks of it that are
not compressed are there. -/
theorem engineAfter_sha (s : State) : ∀ k, k ≤ s.len.toNat / 128 + shaFinalBlocks s.len.toNat →
    (engineAfter .sha512 s k).blk = k ∧ (engineAfter .sha512 s k).off = 0
      ∧ (engineAfter .sha512 s k).total.toNat = s.len.toNat
      ∧ (s.len.toNat / 128 < k → (engineAfter .sha512 s k).buf.length
          = 128 * (s.len.toNat / 128 + 1 + shaFinalBlocks s.len.toNat - k))
  | 0, _ => by
    refine ⟨rfl, rfl, ?_, fun h => by omega⟩
    show (BitVec.ofNat 32 s.len.toNat).toNat = s.len.toNat
    rw [BitVec.ofNat_toNat, BitVec.setWidth_eq]
  | k + 1, hk => by
    obtain ⟨hblk, hoff, htotal, hbuf⟩ := engineAfter_sha s k (by omega)
    rw [engineAfter_succ]
    simp only [recipeOf, shaRecipe, shaUnit, htotal, hblk]
    by_cases hlt : k < s.len.toNat / 128
    · rw [if_pos hlt]
      exact ⟨rfl, hoff, htotal, fun h => by omega⟩
    rw [if_neg hlt]
    by_cases heq : k = s.len.toNat / 128
    · rw [if_pos heq]
      refine ⟨rfl, hoff, htotal, fun _ => ?_⟩
      dsimp only
      rw [length_shaPad (by rw [length_chunkBytes]; dsimp only; omega)]
      omega
    · rw [if_neg heq]
      have hlen := hbuf (by omega)
      have hdrop : (engineAfter .sha512 s k).buf.drop 128 ≠ [] := fun h => by
        have := congrArg List.length h
        rw [List.length_drop, List.length_nil] at this
        omega
      rw [if_neg hdrop]
      refine ⟨rfl, hoff, htotal, fun _ => ?_⟩
      dsimp only
      rw [List.length_drop]
      omega

theorem reachesEnd_sha (s : State) : ReachesEnd .sha512 s := by
  have hunits : (recipeOf .sha512).units s.len.toNat = s.len.toNat / 128 + shaFinalBlocks s.len.toNat + 1 := by
    simp only [recipeOf, shaRecipe]
    omega
  refine ⟨fun j hj => ?_, ?_⟩
  · rw [(engineAfter_sha s j (by omega)).2.1]
    exact show 0 < 64 by decide
  · have hpos : 0 < shaFinalBlocks s.len.toNat := by
      rcases shaFinalBlocks_cases s.len.toNat with ⟨-, e⟩ | ⟨-, e⟩ <;> rw [e] <;> decide
    rw [hunits, engineAfter_succ]
    generalize hk : s.len.toNat / 128 + shaFinalBlocks s.len.toNat = k
    obtain ⟨hblk, hoff, htotal, hbuf⟩ := engineAfter_sha s k hk.ge
    have hdrop : (engineAfter .sha512 s k).buf.drop 128 = [] := by
      rw [List.drop_eq_nil_iff, hbuf (by omega)]
      omega
    simp only [recipeOf, shaRecipe, shaUnit, htotal, hblk, if_neg (show ¬ k < s.len.toNat / 128 by omega),
      if_neg (show ¬ k = s.len.toNat / 128 by omega), hdrop, if_true, emit, length_shaDigest, hoff, Nat.zero_add]

/-! #### Every command -/

/-- Every command other than rng that passed its checks comes to the end of its output in its units. -/
theorem reachesEnd {i : Instr} {s : State} (hi : i ≠ .rng) (hc : checkCommand (recipeOf i) s = none) :
    ReachesEnd i s := by
  induction i using instr_byFamily with
  | ctr v => exact reachesEnd_ctr v s
  | enc v => exact reachesEnd_enc v s
  | codec d m => exact reachesEnd_codec d m hc
  | rabbit => exact reachesEnd_rabbit hc
  | trivium => exact reachesEnd_trivium s
  | chacha20 => exact reachesEnd_chacha s
  | sha512 => exact reachesEnd_sha s
  | rng => exact absurd rfl hi

theorem length_computedOutput {i : Instr} {s : State} (h : ReachesEnd i s) :
    (computedOutput (recipeOf i) s).length = (recipeOf i).outLen s.len.toNat := by
  rw [← engineAfter_out, engineAfter_length, h.all]

/-- Bytes read one by one answer together. -/
theorem inputAnswers_sub {s : State} {n lo hi : Nat} (h : inputAnswers s 0 n = true) (hn : hi ≤ n) :
    inputAnswers s lo hi = true := by
  simp only [inputAnswers, List.all_eq_true, List.mem_range] at h ⊢
  intro j hj
  rw [← Nat.zero_add (lo + j)]
  exact h _ (by omega)

/-- An engine step with room for the whole command completes it with the output it computes (60_exceptions.md
R711). -/
theorem exec_runnable {i : Instr} {s : State} (hi : i ≠ .rng) (h : Runnable i s) :
    exec i s = .next (completedWith (computedOutput (recipeOf i) s) s) := by
  obtain ⟨⟨-, heng, hcheck⟩, ⟨hin, hout⟩, hroom⟩ := h
  obtain ⟨hmissing, hall⟩ := reachesEnd hi hcheck
  have hp : s.eng.phase = .run := by rw [heng]; rfl
  have hr : runs i s = true := by simp [runs, heng, freshEngine]
  rw [exec_eq_perform hi, perform_run hp hr, runSteps_complete heng
    (fun j hj => ⟨hmissing j hj, inputAnswers_sub hin (chunk_within i _ _)⟩) hall hout hroom]

/-! #### What the output depends on -/

/-- Any stretch of a range read at once. -/
theorem readBytes_slice {m : Memory} {base : Word} {lo count n : Nat} (h : lo + count ≤ n) :
    readBytes m base lo count = ((readBytes m base 0 n).drop lo).take count := by
  apply List.ext_getElem (by simp; omega)
  intro j h1 h2
  simp [readBytes]

/-- The bytes a unit reads are among the command's input bytes. -/
theorem chunkBytes_eq_slice (i : Instr) (s : State) (k : Nat) :
    chunkBytes (recipeOf i) s k
      = ((inputBytes i s).drop ((recipeOf i).chunk s.len.toNat k).1).take
          (((recipeOf i).chunk s.len.toNat k).2 - ((recipeOf i).chunk s.len.toNat k).1) := by
  have hin := chunk_within i s.len.toNat k
  unfold chunkBytes inputBytes
  dsimp only
  by_cases h : ((recipeOf i).chunk s.len.toNat k).1 ≤ ((recipeOf i).chunk s.len.toNat k).2
  · exact readBytes_slice (by omega)
  · rw [Nat.sub_eq_zero_of_le (by omega), List.take_zero]
    rfl

/-- A command's output is a function of its operands and its input bytes (10_state.md R131). -/
theorem computedOutput_of_operands {i : Instr} {s t : State} (ho : operandsOf s = operandsOf t) (hl : s.len = t.len)
    (hb : inputBytes i s = inputBytes i t) : computedOutput (recipeOf i) s = computedOutput (recipeOf i) t := by
  have hchunk : ∀ k, chunkBytes (recipeOf i) s k = chunkBytes (recipeOf i) t k := fun k => by
    rw [chunkBytes_eq_slice, chunkBytes_eq_slice, hb, hl]
  have hunits : ∀ (k : Nat) (e : Eng), unitsFrom (recipeOf i) s k e = unitsFrom (recipeOf i) t k e := by
    intro k
    induction k with
    | zero => exact fun _ => rfl
    | succ k ih => intro e; rw [unitsFrom, unitsFrom, ho, hchunk, ih]
  simp only [computedOutput, hl, ho, hunits]

/-- What a completed command wrote is what it computed. -/
theorem readBytes_completedWith {i : Instr} {s : State} (hm : s.mem.wf = true) (hi : i ≠ .rng)
    (hc : checkCommand (recipeOf i) s = none) :
    readBytes (completedWith (computedOutput (recipeOf i) s) s).mem s.dst 0 ((recipeOf i).outLen s.len.toNat)
      = computedOutput (recipeOf i) s := by
  have hlen := length_computedOutput (reachesEnd hi hc)
  rw [completedWith_mem, ← hlen]
  exact readBytes_writeBytes hm (by rw [hlen]; exact (checkCommand_none hc).2)

/-- Settles O52: both runs complete with what they compute, which is the same. -/
theorem outputDependsOnOperandsAlone : Obligations.OutputDependsOnOperandsAlone := by
  unfold Obligations.OutputDependsOnOperandsAlone
  intro i s₁ s₂ t₁ t₂ hi h₁ h₂ hm₁ hm₂ hkey hnonce hctr hlen hin hx₁ hx₂
  rw [exec_runnable hi h₁] at hx₁
  rw [exec_runnable hi h₂] at hx₂
  cases hx₁
  cases hx₂
  have ho : operandsOf s₁ = operandsOf s₂ := by simp only [operandsOf, keyBytes, nonceBytes, hkey, hnonce, hctr, hlen]
  rw [readBytes_completedWith hm₁ hi h₁.1.2.2, readBytes_completedWith hm₂ hi h₂.1.2.2]
  exact computedOutput_of_operands ho hlen hin

end Sys2Proof.Machine

/-! ### Proofs: the host's memory, and the ranges a command may not have -/

namespace Sys2Proof.Machine

/-! #### The ranges a command may not have (20_memory.md R203, R208) -/

/-- Acceptance of a command that passed its checks: a refusal the spec asks for, or the start (60_exceptions.md
R705). -/
theorem accept_checked {c : Recipe} {s : State} (i : Instr) (enter : State → State) (hc : checkCommand c s = none) :
    accept i c enter s =
      if meetsRegisterBlock c s then .refused .registerBlockInDma
      else if meetsDevice c s then .refused .sideEffectMemory
      else .next (enter (latch i (openCommand (encode i) s))) := by
  have hblock : meetsRegisterBlock c (openCommand (encode i) s) = meetsRegisterBlock c s := rfl
  have hdevice : meetsDevice c (openCommand (encode i) s) = meetsDevice c s := rfl
  simp only [accept, checkCommand_openCommand, hc, hblock, hdevice]

/-- Settles O20: acceptance after the checks, by `accept_checked`. -/
theorem forbiddenRangesRefused : Obligations.ForbiddenRangesRefused := by
  unfold Obligations.ForbiddenRangesRefused
  intro i s hp hc
  rw [exec_idle i hp, accept_checked i _ hc]
  refine ⟨fun hblock => if_pos hblock, fun hblock hdevice => ?_⟩
  rw [if_neg (Bool.eq_false_iff.mp hblock), if_pos hdevice]

/-! #### The host's memory accesses (20_memory.md R223, R227) -/

/-- An output byte still undecided is the old or the computed one (R223(a)). -/
theorem oldOrComputed_spec (i : Instr) (s : State) (j k : Nat) :
    OldOrComputed i s (oldOrComputed (recipeOf i) s j k) j := by
  unfold oldOrComputed
  split
  · exact .inr rfl
  · exact .inl rfl

section
variable {c : Recipe} {s : State} (hs : s.eng.spoiled = false)
include hs

theorem runningRead_run (hp : s.eng.phase = .run) (a : Nat) :
    runningRead c s a = oldOrComputed c s (a - s.dst.toNat) s.draws := by
  simp [runningRead, hs, hp]

/-- Of rng the host reads what a byte written before held, by a free choice, or the byte in memory (log 11). -/
theorem runningRead_rng (hp : inRngPhase s) (a : Nat) :
    runningRead c s a
      = if decide (a - s.dst.toNat < s.eng.under.length) && Config.pick s.draws
        then s.eng.under.getD (a - s.dst.toNat) 0 else readMem s.mem a := by
  rcases hp with hp | hp | hp <;> simp [runningRead, hs, hp]

theorem runningRead_rng_written (hp : inRngPhase s) {a : Nat} (ha : a - s.dst.toNat < s.eng.under.length) :
    s.eng.under[a - s.dst.toNat]? = some (runningRead c s a) ∨ runningRead c s a = readMem s.mem a := by
  rw [runningRead_rng hs hp]
  cases Config.pick s.draws with
  | true => exact .inl (by simp [ha])
  | false => exact .inr (by simp)

theorem runningRead_rng_unwritten (hp : inRngPhase s) {a : Nat} (ha : s.eng.under.length ≤ a - s.dst.toNat) :
    runningRead c s a = readMem s.mem a := by
  rw [runningRead_rng hs hp, decide_eq_false (Nat.not_lt.mpr ha), Bool.false_and, if_neg Bool.false_ne_true]

end

/-- Of a running command's output byte a read returns `runningRead`, and takes a draw (log 27). -/
theorem hostMemRead_output {i : Instr} {s : State} {a : Word} {maintained : Bool}
    (hc : hostCoherent s maintained = true) (hi : runningCommand s = some i)
    (ha : inOutput (recipeOf i) s a.toNat = true) :
    hostMemRead a maintained s
      = .next { s with mdata := runningRead (recipeOf i) s a.toNat, draws := s.draws + 1 } := by
  simp only [hostMemRead, hc, hi, ha, if_true]

/-- Outside a running command's ranges a read returns the byte of memory. -/
theorem hostMemRead_outside {s : State} {a : Word} {maintained : Bool} (hc : hostCoherent s maintained = true)
    (ha : inRunningRanges s a.toNat = false) :
    hostMemRead a maintained s = .next { s with mdata := readMem s.mem a.toNat } := by
  cases hi : runningCommand s with
  | none => simp only [hostMemRead, hc, hi, if_true]
  | some i =>
    have hout : inOutput (recipeOf i) s a.toNat = false := by
      simp only [inRunningRanges, hi, Bool.or_eq_false_iff] at ha
      exact ha.2
    simp only [hostMemRead, hc, hi, hout, Bool.false_eq_true, if_true, if_false]

theorem hostMemWrite_coherent {s : State} {a : Word} (b : Byte) {maintained : Bool}
    (hc : hostCoherent s maintained = true) :
    hostMemWrite a b maintained s = .next { s with
      mem := writeMem s.mem a.toNat b
      eng := { s.eng with spoiled := s.eng.spoiled || inRunningRanges s a.toNat } } :=
  if_pos hc

/-- Settles O47: the read is `runningRead`, by the phase of the command that runs. -/
theorem hostReadsOldOrComputed : Obligations.HostReadsOldOrComputed := by
  unfold Obligations.HostReadsOldOrComputed
  intro i s a maintained hphase hr hs hc ha
  have hne : s.eng.phase ≠ .idle := by
    rcases hphase with ⟨hp, -⟩ | ⟨hp | hp | hp, -⟩ <;> rw [hp] <;> decide
  refine ⟨_, hostMemRead_output hc (runningCommand_of_runs hne hr) ha, rfl, ?_⟩
  dsimp only
  rcases hphase with ⟨hp, hi⟩ | ⟨hp, hi⟩
  · rw [runningRead_run hs hp]
    exact ⟨fun _ => oldOrComputed_spec i s _ _, fun h => absurd h hi, fun h => absurd h hi⟩
  · exact ⟨fun h => absurd hi h, fun _ => runningRead_rng_written hs hp, fun _ => runningRead_rng_unwritten hs hp⟩

/-- Settles O49: the accesses by their equations above; no range is hit, so the write marks nothing. -/
theorem hostCacheDuty : Obligations.HostCacheDuty := by
  unfold Obligations.HostCacheDuty
  refine fun s a b => ⟨fun hcoherent => ?_, fun maintained hduty ha => ?_⟩
  · have hc : ¬ hostCoherent s false = true := by simp [hostCoherent, hcoherent]
    exact ⟨if_neg hc, if_neg hc⟩
  · have hc : hostCoherent s maintained = true := Bool.or_eq_true_iff.mpr hduty
    refine ⟨hostMemRead_outside hc ha, (hostMemWrite_coherent b hc).trans ?_⟩
    rw [ha, Bool.or_false]

/-! #### A host write into a running command's ranges (20_memory.md R223(b)) -/

/-- A unit of a command that has computed its output, over a bus that answers, is its completion (60_exceptions.md
R711). -/
theorem runStep_finish {c : Recipe} {s : State} (hready : s.eng.ready = true) (hoff : c.outLen s.len.toNat ≤ s.eng.off)
    (hbus : outputAnswers s (c.outLen s.len.toNat) = true) :
    runStep c s = finish c (s.eng.out.take (c.outLen s.len.toNat)) s := by
  simp only [runStep, hready, Bool.true_eq_false, Nat.not_lt.mpr hoff, hbus, if_true, if_false]

theorem finish_spoiled {c : Recipe} {s : State} (hs : s.eng.spoiled = true) (bs : List Byte) :
    finish c bs s = complete (freeOutput c s) := if_pos hs

/-- Settles O48: the write marks the command, and a marked command completes over a free output. -/
theorem hostWriteFreesOutput : Obligations.HostWriteFreesOutput := by
  unfold Obligations.HostWriteFreesOutput
  refine ⟨fun s a b maintained hc ha => ?_, fun i s hi hp hr hs hready hoff hbus => ?_⟩
  · refine (hostMemWrite_coherent b hc).trans ?_
    rw [ha, Bool.or_true]
  · have hended : (complete (freeOutput (recipeOf i) s)).eng.phase ≠ .run := by
      rw [complete_eng]
      decide
    rw [exec_eq_perform hi, perform_run hp hr, runSteps_succ hp, runStep_finish hready hoff hbus, finish_spoiled hs,
      runSteps_stopped hended]
    rfl

end Sys2Proof.Machine

/-! ### Proofs: the decoder and the encoder agree, and what becomes of a word that is no command -/

namespace Sys2Proof.Machine

/-! #### A word, its fields and its bytes (30_encoding.md R301; 10_state.md R103) -/

theorem splitWord_joinFields (f : CmdFields) : splitWord (joinFields f) = f := by
  obtain ⟨rsv, var, op⟩ := f
  have hrsv : (rsv ++ var ++ op).extractLsb' 12 20 = rsv :=
    (BitVec.extractLsb'_append_eq_of_le (by decide)).trans BitVec.extractLsb'_append_eq_left
  have hvar : (rsv ++ var ++ op).extractLsb' 8 4 = var :=
    (BitVec.extractLsb'_append_eq_of_le (by decide)).trans BitVec.extractLsb'_append_eq_right
  have hop : (rsv ++ var ++ op).extractLsb' 0 8 = op := BitVec.extractLsb'_append_eq_right
  rw [joinFields, splitWord, hrsv, hvar, hop]

theorem joinFields_splitWord (w : Word) : joinFields (splitWord w) = w := by
  simp only [joinFields, splitWord]
  rw [BitVec.extractLsb'_append_extractLsb'_eq_extractLsb' (start₂ := 12) (start₁ := 8) rfl,
    BitVec.extractLsb'_append_extractLsb'_eq_extractLsb' (start₂ := 8) (start₁ := 0) rfl, BitVec.extractLsb'_eq_self]

theorem wordOfBytes_extract (w : Word) :
    wordOfBytes (w.extractLsb' 0 8) (w.extractLsb' 8 8) (w.extractLsb' 16 8) (w.extractLsb' 24 8) = w := by
  rw [wordOfBytes, BitVec.extractLsb'_append_extractLsb'_eq_extractLsb' (start₂ := 24) (start₁ := 16) rfl,
    BitVec.extractLsb'_append_extractLsb'_eq_extractLsb' (start₂ := 16) (start₁ := 8) rfl,
    BitVec.extractLsb'_append_extractLsb'_eq_extractLsb' (start₂ := 8) (start₁ := 0) rfl, BitVec.extractLsb'_eq_self]

/-- The decoder of bytes takes four of them and decodes their word. -/
theorem decode_bytesOfWord (w : Word) (rest : List Byte) :
    decode (bytesOfWord w ++ rest) = (decodeWord w).map (·, rest) := by
  simp only [bytesOfWord, List.cons_append, List.nil_append, decode, wordOfBytes_extract]
  cases decodeWord w <;> rfl

theorem splitWord_op_toNat (w : Word) : (splitWord w).op.toNat = w.toNat % 256 := by
  simp [splitWord, BitVec.extractLsb'_toNat]

theorem splitWord_var_toNat (w : Word) : (splitWord w).var.toNat = w.toNat / 256 % 16 := by
  simp [splitWord, BitVec.extractLsb'_toNat, Nat.shiftRight_eq_div_pow]

theorem splitWord_rsv_toNat (w : Word) : (splitWord w).rsv.toNat = w.toNat / 2 ^ 12 := by
  have hlt := w.isLt
  simp only [splitWord, BitVec.extractLsb'_toNat, Nat.shiftRight_eq_div_pow]
  omega

theorem splitWord_rsv_eq_zero_iff (w : Word) : (splitWord w).rsv = 0 ↔ w.toNat / 2 ^ 12 = 0 := by
  rw [← splitWord_rsv_toNat, BitVec.toNat_eq]
  rfl

/-! #### The tables of commands by VAR (R303 to R309) -/

theorem ctrCommand_some {n : Nat} {i : Instr} (h : ctrCommand n = some i) :
    i.opcode.toNat = 1 ∧ i.varField.toNat = n := by
  unfold ctrCommand at h
  split at h <;> cases h <;> exact ⟨rfl, rfl⟩

theorem encCommand_some {n : Nat} {i : Instr} (h : encCommand n = some i) :
    i.opcode.toNat = 2 ∧ i.varField.toNat = n := by
  unfold encCommand at h
  split at h <;> cases h <;> exact ⟨rfl, rfl⟩

theorem b2wCommand_some {n : Nat} {i : Instr} (h : b2wCommand n = some i) :
    i.opcode.toNat = 8 ∧ i.varField.toNat = n := by
  unfold b2wCommand at h
  split at h <;> cases h <;> exact ⟨rfl, rfl⟩

theorem w2bCommand_some {n : Nat} {i : Instr} (h : w2bCommand n = some i) :
    i.opcode.toNat = 9 ∧ i.varField.toNat = n := by
  unfold w2bCommand at h
  split at h <;> cases h <;> exact ⟨rfl, rfl⟩

theorem plainCommand_some {n : Nat} {i j : Instr} (hj : j.varField = 0) (h : plainCommand j n = some i) :
    i.opcode.toNat = j.opcode.toNat ∧ i.varField.toNat = n := by
  unfold plainCommand at h
  split at h <;> cases h
  exact ⟨rfl, by rw [hj]; rfl⟩

/-- The command a table gives is the one of the OP and the VAR it was asked for. -/
theorem operation_command {o v : Nat} {byVar : Nat → Option Instr} {i : Instr} (ho : operation o = some byVar)
    (hv : byVar v = some i) : i.opcode.toNat = o ∧ i.varField.toNat = v := by
  rcases operation_cases ho with ⟨rfl, rfl⟩ | ⟨rfl, rfl⟩ | ⟨rfl, rfl⟩ | ⟨rfl, rfl⟩ | ⟨rfl, rfl⟩ | ⟨rfl, rfl⟩
    | ⟨rfl, rfl⟩ | ⟨rfl, rfl⟩ | ⟨rfl, rfl⟩
  exacts [ctrCommand_some hv, encCommand_some hv, plainCommand_some rfl hv, plainCommand_some rfl hv,
    plainCommand_some rfl hv, plainCommand_some rfl hv, plainCommand_some rfl hv, b2wCommand_some hv,
    w2bCommand_some hv]

/-- The reserved operation codes (R304). -/
theorem operation_eq_none_iff {o : Nat} : operation o = none ↔ o = 0 ∨ 10 ≤ o := by
  constructor
  · intro h
    by_contra hn
    obtain ⟨hlo, hhi⟩ : 1 ≤ o ∧ o ≤ 9 := by omega
    interval_cases o <;> cases h
  · intro h
    cases ho : operation o with
    | none => rfl
    | some byVar =>
      have hlegal := operation_cases ho
      omega

theorem operation_exists {o : Nat} (hlo : 1 ≤ o) (hhi : o ≤ 9) : ∃ byVar, operation o = some byVar :=
  Option.ne_none_iff_exists'.mp fun hn => by
    have := operation_eq_none_iff.mp hn
    omega

theorem ctrCommand_isSome (v : BitVec 4) : (ctrCommand v.toNat).isSome = decide (v.toNat ≤ 9) := by
  revert v; decide

theorem encCommand_isSome (v : BitVec 4) : (encCommand v.toNat).isSome = decide (v.toNat ≤ 9) := by
  revert v; decide

theorem b2wCommand_isSome (v : BitVec 4) : (b2wCommand v.toNat).isSome = (v == 0 || v == 1 || v == 3) := by
  revert v; decide

theorem w2bCommand_isSome (v : BitVec 4) : (w2bCommand v.toNat).isSome = (v == 0 || v == 1 || v == 3) := by
  revert v; decide

theorem plainCommand_isSome (i : Instr) (v : BitVec 4) : (plainCommand i v.toNat).isSome = (v == 0) := by
  have hn : (plainCommand i v.toNat).isSome = (v.toNat == 0) := by cases v.toNat <;> rfl
  rw [hn, Bool.eq_iff_iff, beq_iff_eq, beq_iff_eq, BitVec.toNat_eq]
  rfl

/-- A table has a command exactly at the VAR values legal for its OP (R307 to R309). -/
theorem operation_isSome_eq_varLegal {f : CmdFields} {byVar : Nat → Option Instr}
    (ho : operation f.op.toNat = some byVar) : (byVar f.var.toNat).isSome = f.varLegal := by
  rcases operation_cases ho with ⟨hop, rfl⟩ | ⟨hop, rfl⟩ | ⟨hop, rfl⟩ | ⟨hop, rfl⟩ | ⟨hop, rfl⟩ | ⟨hop, rfl⟩
    | ⟨hop, rfl⟩ | ⟨hop, rfl⟩ | ⟨hop, rfl⟩ <;>
    simp [CmdFields.varLegal, hop, ctrCommand_isSome, encCommand_isSome, b2wCommand_isSome, w2bCommand_isSome,
      plainCommand_isSome]

/-! #### The decoder on fields (R302) -/

section
variable {f : CmdFields}

theorem decodeFields_reserved (h : f.rsv ≠ 0) : decodeFields f = .error .illegalCmd := if_neg h

theorem decodeFields_reservedOp (h : operation f.op.toNat = none) : decodeFields f = .error .illegalCmd := by
  rw [decodeFields, h, ite_self]

/-- With RSV = 0 and an OP of the table, VAR decides. -/
theorem decodeFields_of_operation {byVar : Nat → Option Instr} (hr : f.rsv = 0)
    (ho : operation f.op.toNat = some byVar) :
    decodeFields f = (byVar f.var.toNat).elim (.error .illegalVariant) .ok := by
  rw [decodeFields, if_pos hr, ho]
  cases h : byVar f.var.toNat <;> simp [h]

theorem decodeFields_illegalVariant (hr : f.rsv = 0) (hlo : 1 ≤ f.op.toNat) (hhi : f.op.toNat ≤ 9)
    (hv : f.varLegal = false) : decodeFields f = .error .illegalVariant := by
  obtain ⟨byVar, ho⟩ := operation_exists hlo hhi
  rw [← operation_isSome_eq_varLegal ho, Option.isSome_eq_false_iff, Option.isNone_iff_eq_none] at hv
  rw [decodeFields_of_operation hr ho, hv]
  rfl

theorem decodeFields_legal (hr : f.rsv = 0) (hlo : 1 ≤ f.op.toNat) (hhi : f.op.toNat ≤ 9)
    (hv : f.varLegal = true) : ∃ i, decodeFields f = .ok i := by
  obtain ⟨byVar, ho⟩ := operation_exists hlo hhi
  rw [← operation_isSome_eq_varLegal ho] at hv
  obtain ⟨i, hi⟩ := Option.isSome_iff_exists.mp hv
  exact ⟨i, by rw [decodeFields_of_operation hr ho, hi]; rfl⟩

/-- Only a command's own fields decode to it. -/
theorem eq_fields_of_decodeFields {i : Instr} (h : decodeFields f = .ok i) : f = i.fields := by
  by_cases hr : f.rsv = 0
  · cases ho : operation f.op.toNat with
    | none => rw [decodeFields_reservedOp ho] at h; cases h
    | some byVar =>
      rw [decodeFields_of_operation hr ho] at h
      cases hv : byVar f.var.toNat with
      | none => rw [hv] at h; cases h
      | some j =>
        rw [hv] at h
        cases h
        obtain ⟨hop, hvar⟩ := operation_command ho hv
        rw [Instr.fields, BitVec.eq_of_toNat_eq hop, BitVec.eq_of_toNat_eq hvar, ← hr]
  · rw [decodeFields_reserved hr] at h
    cases h

end

/-! #### The obligations on the decoder -/

theorem decodeWord_encode (i : Instr) : decodeWord (encode i) = .ok i := by
  rw [decodeWord, encode, splitWord_joinFields, decodeFields_fields]

/-- Settles O1: the word of the fields, and the fields of the word, by the tables of R303 to R309. -/
theorem decodeEncodeAgree : Obligations.DecodeEncodeAgree := by
  unfold Obligations.DecodeEncodeAgree
  refine ⟨fun i rest => ?_, fun w i h => ?_⟩
  · rw [encodeBytes, decode_bytesOfWord, decodeWord_encode]
    rfl
  · rw [encode, ← eq_fields_of_decodeFields h, joinFields_splitWord]

/-- Settles O2: a check that fails ends the decoding, and what passes them all is the command of its fields. -/
theorem decoderChecksInOrder : Obligations.DecoderChecksInOrder := by
  unfold Obligations.DecoderChecksInOrder
  intro w
  rw [ne_eq, ← splitWord_rsv_eq_zero_iff, ← splitWord_op_toNat, ← splitWord_var_toNat]
  refine ⟨decodeFields_reserved, fun _ hop => decodeFields_reservedOp (operation_eq_none_iff.mpr hop),
    decodeFields_illegalVariant, fun hr hlo hhi hv => ?_⟩
  obtain ⟨i, hi⟩ := decodeFields_legal hr hlo hhi hv
  rw [eq_fields_of_decodeFields hi]
  exact ⟨i, hi, rfl, rfl⟩

/-- Settles O3: each word is its command's. -/
theorem tableWordsDecode : Obligations.TableWordsDecode :=
  ⟨decodeWord_encode .bcCtrSpeck64_96, decodeWord_encode .bcCtrSimon128_256, decodeWord_encode .bcEncSpeck128_256,
    decodeWord_encode .rabbit, decodeWord_encode .trivium, decodeWord_encode .chacha20, decodeWord_encode .sha512,
    decodeWord_encode .rng, decodeWord_encode .b2wBe64, decodeWord_encode .w2bLe64⟩

/-! #### A word that is no command (60_exceptions.md R705, R710) -/

/-- The host's write to CMD of a word that is no command. -/
theorem act_commandMove_illegal {s : State} {v : Word} {r : Reject} (hb : s.status.busy = false)
    (h : decodeWord v = .error r) : act (commandMove s v) s = .next (rejectWord v r s) := by
  rw [act_commandMove hb, ← List.append_nil (bytesOfWord v), decode_bytesOfWord, h]
  rfl

/-- A word that is no command ends in an error completion, with the code of the check that failed. -/
theorem rejectWord_eq_raiseError (v : Word) (r : Reject) (s : State) :
    ∃ e, rejectWord v r s = raiseError e (openCommand v s)
      ∧ errorByte e = if r = .illegalVariant then 0x02 else 0x01 := by
  cases r with
  | illegalCmd | truncated => exact ⟨.illegalCmd, rfl, rfl⟩
  | illegalVariant => exact ⟨.illegalVariant, rfl, rfl⟩

/-- Settles O5: the write rejects the word, and the error completion leaves the rest alone. -/
theorem illegalWordEndsInError : Obligations.IllegalWordEndsInError := by
  unfold Obligations.IllegalWordEndsInError
  intro s v r hb hm hd
  obtain ⟨e, he, hcode⟩ := rejectWord_eq_raiseError v r (takeMove s)
  have hstep : step s = .next (raiseError e (openCommand v (takeMove s))) := by
    rw [step, hm, ← he]
    exact act_commandMove_illegal (s := takeMove s) hb hd
  refine ⟨_, hstep, rfl, ?_, rfl, rfl, rfl, rfl, rfl, rfl, rfl, rfl, rfl, rfl, rfl, rfl, rfl⟩
  rw [raiseError_status, errorFlags, hcode]
  rfl

end Sys2Proof.Machine

/-! ### Proofs: words and bytes, and the codec commands -/

namespace Sys2Proof.Machine

/-! #### Values and their bytes (40_codec.md R400, R401) -/

theorem leNat_lt : ∀ bs : List Byte, leNat bs < 256 ^ bs.length
  | [] => by simp [leNat]
  | b :: bs => by
    have hb := b.isLt
    have hbs := leNat_lt bs
    rw [leNat, List.length_cons, Nat.pow_succ]
    omega

theorem leBytes_leNat : ∀ bs : List Byte, leBytes bs.length (leNat bs) = bs
  | [] => rfl
  | b :: bs => by
    have hb := b.isLt
    have hdiv : (b.toNat + 256 * leNat bs) / 256 = leNat bs := by omega
    have hbyte : BitVec.ofNat 8 (b.toNat + 256 * leNat bs) = b := by
      apply BitVec.eq_of_toNat_eq
      rw [BitVec.toNat_ofNat]
      omega
    rw [leNat, List.length_cons, leBytes, hdiv, hbyte, leBytes_leNat bs]

theorem leNat_leBytes : ∀ {w v : Nat}, v < 256 ^ w → leNat (leBytes w v) = v
  | 0, v, h => by
    rw [Nat.pow_zero] at h
    exact (Nat.lt_one_iff.mp h).symm
  | w + 1, v, h => by
    have hdiv : v / 256 < 256 ^ w := by
      rw [Nat.pow_succ] at h
      omega
    rw [leBytes, leNat, leNat_leBytes hdiv, BitVec.toNat_ofNat]
    omega

theorem beNat_beBytes {w v : Nat} (h : v < 256 ^ w) : beNat (beBytes w v) = v := by
  rw [beNat, beBytes, List.reverse_reverse, leNat_leBytes h]

/-! #### One word of whole bytes -/

section
variable {n : Nat} (hn : 8 ∣ n)
include hn

theorem pow_wordBytes : 256 ^ (n / 8) = 2 ^ n := by
  rw [show 256 = 2 ^ 8 from rfl, ← Nat.pow_mul, Nat.mul_div_cancel' hn]

theorem leBytes_wordLE {g : List Byte} (hg : g.length = n / 8) :
    leBytes (n / 8) (BitVec.ofNat n (leNat g)).toNat = g := by
  have hlt := leNat_lt g
  rw [hg, pow_wordBytes hn] at hlt
  rw [BitVec.toNat_ofNat, Nat.mod_eq_of_lt hlt, ← hg, leBytes_leNat]

theorem beBytes_wordBE {g : List Byte} (hg : g.length = n / 8) :
    beBytes (n / 8) (BitVec.ofNat n (beNat g)).toNat = g := by
  rw [beBytes, beNat, leBytes_wordLE hn (by rw [List.length_reverse, hg]), List.reverse_reverse]

theorem wordLE_leBytes (v : BitVec n) : BitVec.ofNat n (leNat (leBytes (n / 8) v.toNat)) = v := by
  rw [leNat_leBytes (by rw [pow_wordBytes hn]; exact v.isLt), BitVec.ofNat_toNat, BitVec.setWidth_eq]

theorem wordBE_beBytes (v : BitVec n) : BitVec.ofNat n (beNat (beBytes (n / 8) v.toNat)) = v := by
  rw [beNat_beBytes (by rw [pow_wordBytes hn]; exact v.isLt), BitVec.ofNat_toNat, BitVec.setWidth_eq]

end

/-! #### Lists of words (R402 to R404) -/

/-- Groups turned into words and back, one by one, are the bytes they were cut from. -/
theorem flatMap_map_groups {α : Type} {w : Nat} {toWord : List Byte → α} {toBytes : α → List Byte}
    (hinv : ∀ g : List Byte, g.length = w → toBytes (toWord g) = g) :
    ∀ (count : Nat) (bs : List Byte), bs.length = w * count →
      ((groups w count bs).map toWord).flatMap toBytes = bs
  | 0, bs, h => (List.eq_nil_of_length_eq_zero h).symm
  | count + 1, bs, h => by
    rw [Nat.mul_succ] at h
    rw [groups, List.map_cons, List.flatMap_cons, hinv _ (by rw [List.length_take]; omega),
      flatMap_map_groups hinv count _ (by rw [List.length_drop]; omega), List.take_append_drop]

/-- Byte images of one length, put one after the other, are the groups of that length. -/
theorem groups_flatMap {α : Type} {w : Nat} {toBytes : α → List Byte} (hlen : ∀ v, (toBytes v).length = w) :
    ∀ ws : List α, groups w ws.length (ws.flatMap toBytes) = ws.map toBytes
  | [] => rfl
  | v :: ws => by
    rw [List.length_cons, groups, List.flatMap_cons, List.take_left' (hlen v), List.drop_left' (hlen v),
      groups_flatMap hlen ws, List.map_cons]

section
variable {n : Nat} (hn : 8 ∣ n)
include hn

theorem bytesLE_wordsLE {count : Nat} {bs : List Byte} (h : bs.length = n / 8 * count) :
    bytesLE (wordsLE n count bs) = bs := by
  rw [wordsLE, bytesLE]
  refine flatMap_map_groups (fun _ hg => ?_) count bs h
  exact leBytes_wordLE hn hg

theorem bytesBE_wordsBE {count : Nat} {bs : List Byte} (h : bs.length = n / 8 * count) :
    bytesBE (wordsBE n count bs) = bs := by
  rw [wordsBE, bytesBE]
  refine flatMap_map_groups (fun _ hg => ?_) count bs h
  exact beBytes_wordBE hn hg

theorem wordsLE_bytesLE (ws : List (BitVec n)) : wordsLE n ws.length (bytesLE ws) = ws := by
  rw [wordsLE, bytesLE, groups_flatMap fun _ => length_leBytes _ _, List.map_map]
  exact List.map_id'' (wordLE_leBytes hn) ws

theorem wordsBE_bytesBE (ws : List (BitVec n)) : wordsBE n ws.length (bytesBE ws) = ws := by
  rw [wordsBE, bytesBE, groups_flatMap fun _ => length_beBytes _ _, List.map_map]
  exact List.map_id'' (wordBE_beBytes hn) ws

end

/-- Settles O55: each direction holds word by word, and a list of words is cut where its bytes were joined. -/
theorem codecFunctionsAreInverse : Obligations.CodecFunctionsAreInverse := by
  unfold Obligations.CodecFunctionsAreInverse
  intro n hsize
  have hn : 8 ∣ n := by omega
  exact ⟨fun _ _ h => ⟨bytesLE_wordsLE hn h, bytesBE_wordsBE hn h⟩,
    fun ws => ⟨wordsLE_bytesLE hn ws, wordsBE_bytesBE hn ws⟩⟩

/-! #### A word of a codec command (R406) -/

/-- A big-endian word is the little-endian word of the bytes reversed. -/
theorem wordsBE_one {n : Nat} {bs : List Byte} (h : bs.length = n / 8) :
    wordsBE n 1 bs = wordsLE n 1 bs.reverse := by
  simp only [wordsBE, wordsLE, groups, List.map_cons, List.map_nil, beNat, ← h, List.take_length,
    List.take_of_length_le (List.length_reverse.le)]

theorem bytesBE_singleton {n : Nat} (v : BitVec n) : bytesBE [v] = (bytesLE [v]).reverse := by
  simp only [bytesBE, bytesLE, List.flatMap_singleton, beBytes]

/-- The bytes of one word as a mode leaves them: in place, or reversed. -/
def reorderWord : Mode → List Byte → List Byte
  | .le32, bs | .le64, bs => bs
  | .be64, bs => bs.reverse

/-- Both directions of a mode reorder the bytes of a word alike. -/
theorem convert_word (d : Direction) {m : Mode} {bs : List Byte} (h : bs.length = modeBytes m) :
    convert d m 1 bs = reorderWord m bs := by
  have hcopy32 : bs.length = 4 → bytesLE (wordsLE 32 1 bs) = bs := fun hb => bytesLE_wordsLE (by decide) hb
  have hcopy64 : ∀ {g : List Byte}, g.length = 8 → bytesLE (wordsLE 64 1 g) = g :=
    fun hg => bytesLE_wordsLE (by decide) hg
  match d, m with
  | .b2w, .le32 | .w2b, .le32 => exact hcopy32 h
  | .b2w, .le64 | .w2b, .le64 => exact hcopy64 h
  | .b2w, .be64 =>
    rw [convert, wordsBE_one h, hcopy64 (by rw [List.length_reverse]; exact h)]
    rfl
  | .w2b, .be64 =>
    rw [convert, wordsLE, groups, groups, List.map_singleton, bytesBE_singleton]
    exact congrArg List.reverse (hcopy64 h)

/-- The input byte that output byte `j` of a mode is. -/
def sourceIndex : Mode → Nat → Nat
  | .le32, j | .le64, j => j
  | .be64, j => 8 * (j / 8) + (7 - j % 8)

theorem codecOutput_eq (m : Mode) (s : State) :
    codecOutput m s = (List.range s.len.toNat).map fun j => inputByte s (sourceIndex m j) := by
  cases m <;> rfl

/-- Word `k` reordered is the output bytes of the same place. -/
theorem reorderWord_inputBytes (m : Mode) (s : State) (k : Nat) :
    reorderWord m (readBytes s.mem s.src (modeBytes m * k) (modeBytes m))
      = (List.range (modeBytes m)).map fun j => inputByte s (sourceIndex m (modeBytes m * k + j)) := by
  cases m with
  | le32 | le64 => rfl
  | be64 =>
    apply List.ext_getElem (by simp [reorderWord, modeBytes])
    intro j hj _
    have hj8 : j < 8 := by simpa [reorderWord, modeBytes] using hj
    have hsource : sourceIndex .be64 (8 * k + j) = 8 * k + (8 - 1 - j) := by
      rw [sourceIndex]
      omega
    simp [reorderWord, modeBytes, readBytes, inputByte, hsource]

/-- The units of a codec command append its output word by word. -/
theorem engineAfter_codec (d : Direction) (m : Mode) (s : State) : ∀ k, k ≤ s.len.toNat / modeBytes m →
    (engineAfter (codecOf d m) s k).blk = k
      ∧ (engineAfter (codecOf d m) s k).out
          = (List.range (modeBytes m * k)).map fun j => inputByte s (sourceIndex m j)
  | 0, _ => by
    rw [engineAfter, unitsFrom, recipeOf_codecOf]
    exact ⟨rfl, rfl⟩
  | k + 1, hk => by
    obtain ⟨hblk, hout⟩ := engineAfter_codec d m s k (by omega)
    have hword : modeBytes m * k + modeBytes m ≤ s.len.toNat :=
      (Nat.mul_le_mul_left _ hk).trans (Nat.mul_div_le _ _)
    have hchunk : chunkBytes (codecRecipe d m) s k = readBytes s.mem s.src (modeBytes m * k) (modeBytes m) := by
      simp only [chunkBytes, codecRecipe, blockChunk]
      congr 1
      omega
    rw [engineAfter_succ, recipeOf_codecOf, hblk, hchunk]
    refine ⟨congrArg (· + 1) hblk, ?_⟩
    simp only [codecRecipe, codecUnit, emit]
    rw [hout, convert_word d (length_readBytes _ _ _ _), reorderWord_inputBytes, Nat.mul_succ, List.range_add,
      List.map_append, List.map_map]
    rfl

/-- What a codec command that passed its checks computes is what R406 asks. -/
theorem computedOutput_codec {d : Direction} {m : Mode} {s : State} (hc : checkCommand (codecRecipe d m) s = none) :
    computedOutput (codecRecipe d m) s = codecOutput m s := by
  have hlen : s.len.toNat % modeBytes m = 0 := by simpa [codecRecipe] using (checkCommand_none hc).1
  obtain ⟨-, hout⟩ := engineAfter_codec d m s _ le_rfl
  rw [Nat.mul_div_cancel' (Nat.dvd_of_mod_eq_zero hlen), ← codecOutput_eq] at hout
  rw [← hout, engineAfter, recipeOf_codecOf]
  rfl

/-- Settles O27: a codec command completes with what it computes, word by word. -/
theorem codecCompletesWithReorderedBytes : Obligations.CodecCompletesWithReorderedBytes := by
  unfold Obligations.CodecCompletesWithReorderedBytes
  intro d m s h
  have ⟨⟨_, _, hcheck⟩, _⟩ := h
  rw [recipeOf_codecOf] at hcheck
  rw [exec_runnable (codecOf_ne_rng d m) h, recipeOf_codecOf, computedOutput_codec hcheck]

end Sys2Proof.Machine

/-! ### Proofs: the commands that XOR a keystream into the message -/

namespace Sys2Proof.Machine

/-! #### A keystream given block by block (41_ctr_driver.md R435) -/

/-- The first `m` bytes of a message XORed with a keystream given in blocks of `b` bytes. -/
def xorUpTo (b : Nat) (ks : Nat → List Byte) (s : State) (m : Nat) : List Byte :=
  (List.range m).map fun j => inputByte s j ^^^ (ks (j / b)).getD (j % b) 0

theorem xorUpTo_len (b : Nat) (ks : Nat → List Byte) (s : State) :
    xorUpTo b ks s s.len.toNat = xorStream b ks s := rfl

@[simp] theorem length_xorUpTo (b : Nat) (ks : Nat → List Byte) (s : State) (m : Nat) :
    (xorUpTo b ks s m).length = m := by simp [xorUpTo]

/-- Keystream block `k` applied to the bytes of block `k` there are continues the output by that many bytes. -/
theorem xorUpTo_append_block {b k m : Nat} {ks : Nat → List Byte} (s : State) (hks : (ks k).length = b)
    (hm : m ≤ b) :
    xorUpTo b ks s (b * k) ++ xorBytes (readBytes s.mem s.src (b * k) m) (ks k) = xorUpTo b ks s (b * k + m) := by
  rw [xorUpTo, xorUpTo, List.range_add, List.map_append, List.map_map]
  congr 1
  apply List.ext_getElem (by simp [hks, hm])
  intro j hj _
  have hjb : j < b := by
    rw [length_xorBytes, hks] at hj
    omega
  have hdiv : (b * k + j) / b = k := by rw [Nat.mul_add_div (by omega), Nat.div_eq_of_lt hjb, Nat.add_zero]
  have hmod : (b * k + j) % b = j := by rw [Nat.mul_add_mod, Nat.mod_eq_of_lt hjb]
  simp [xorBytes, readBytes, inputByte, hdiv, hmod, hks, hjb]

/-- A command whose unit `k` appends its block of the message XORed with keystream block `k` computes the whole
message XORed with the keystream. -/
theorem computedOutput_eq_xorStream {i : Instr} {s : State} {b : Nat} {ks : Nat → List Byte} (hend : ReachesEnd i s)
    (hout : (recipeOf i).outLen s.len.toNat = s.len.toNat) (hchunk : (recipeOf i).chunk = blockChunk b)
    (hks : ∀ k, (ks k).length = b)
    (hunit : ∀ k, (engineAfter i s k).blk = k → (engineAfter i s (k + 1)).blk = k + 1
      ∧ (engineAfter i s (k + 1)).out
          = (engineAfter i s k).out ++ xorBytes (chunkBytes (recipeOf i) s k) (ks k)) :
    computedOutput (recipeOf i) s = xorStream b ks s := by
  have hall : ∀ k, k ≤ (recipeOf i).units s.len.toNat → (engineAfter i s k).blk = k
      ∧ (engineAfter i s k).out = xorUpTo b ks s (min (b * k) s.len.toNat) := by
    intro k
    induction k with
    | zero =>
      intro _
      obtain ⟨hoff, hblk⟩ := engineAfter_zero i s
      have hnil : (engineAfter i s 0).out = [] :=
        List.eq_nil_of_length_eq_zero (by rw [engineAfter_length, hoff])
      exact ⟨hblk, by simp [hnil, xorUpTo]⟩
    | succ k ih =>
      intro hk
      obtain ⟨hblk, hupTo⟩ := ih (by omega)
      obtain ⟨hblk', hout'⟩ := hunit k hblk
      have hmore := hend.missing k hk
      rw [← engineAfter_length, hupTo, length_xorUpTo, hout] at hmore
      refine ⟨hblk', ?_⟩
      rw [hout', hupTo, chunkBytes, hchunk, blockChunk, show min (b * k) s.len.toNat = b * k by omega,
        xorUpTo_append_block s (hks k) (by dsimp only; omega), Nat.mul_succ]
      congr 1
      omega
  obtain ⟨-, hupTo⟩ := hall _ le_rfl
  have hlen := hend.all
  rw [← engineAfter_length, hupTo, length_xorUpTo, hout] at hlen
  rw [← engineAfter_out, hupTo, hlen, xorUpTo_len]

/-! #### bc.ctr (41_ctr_driver.md R430 to R436) -/

theorem leBytes_zero : ∀ w, leBytes w 0 = List.replicate w 0
  | 0 => rfl
  | w + 1 => by rw [leBytes, leBytes_zero w, List.replicate_succ]; rfl

/-- The counter moves on from one value to the next, mod 2^(8w) (R432). -/
theorem nextCounter_beBytes (w k : Nat) :
    nextCounter (beBytes w (k % 2 ^ (8 * w))) = beBytes w ((k + 1) % 2 ^ (8 * w)) := by
  have hlt : k % 2 ^ (8 * w) < 256 ^ w := by
    rw [show 256 = 2 ^ 8 from rfl, ← Nat.pow_mul]
    exact Nat.mod_lt _ (Nat.two_pow_pos _)
  rw [nextCounter, length_beBytes, beNat_beBytes hlt, Nat.mod_add_mod]

/-- eng.C before block `k` is BE_B(k mod 2^(8B)) (R432). -/
theorem engineAfter_ctr_counter (v : Variant) (s : State) :
    ∀ k, (engineAfter (ctrOf v) s k).C = beBytes (blockBytes v) (k % 2 ^ (8 * blockBytes v))
  | 0 => by
    rw [engineAfter, unitsFrom, recipeOf_ctrOf, Nat.zero_mod, beBytes, leBytes_zero, List.reverse_replicate]
    rfl
  | k + 1 => by
    rw [engineAfter_succ, recipeOf_ctrOf, ← nextCounter_beBytes, ← engineAfter_ctr_counter v s k]
    rfl

theorem length_ctrKeystream (v : Variant) (o : Operands) (i : Nat) : (ctrKeystream v o i).length = blockBytes v :=
  length_encryptWith v _ _

theorem computedOutput_ctr (v : Variant) (s : State) : computedOutput (ctrRecipe v) s = ctrOutput v s := by
  have hr := recipeOf_ctrOf v
  rw [← hr]
  refine computedOutput_eq_xorStream (reachesEnd_ctr v s) (by rw [hr]; rfl) (by rw [hr]; rfl)
    (length_ctrKeystream v _) fun k hblk => ?_
  rw [engineAfter_succ, hr, hblk]
  refine ⟨congrArg (· + 1) hblk, ?_⟩
  rw [ctrKeystream, encryptBlock, ← engineAfter_ctr_rk v s k, ← engineAfter_ctr_counter v s k]
  rfl

/-- Settles O21: bc.ctr completes with what it computes, block by block. -/
theorem ctrCompletesWithXoredKeystream : Obligations.CtrCompletesWithXoredKeystream := by
  unfold Obligations.CtrCompletesWithXoredKeystream
  intro v s h
  rw [exec_runnable (ctrOf_ne_rng v) h, recipeOf_ctrOf, computedOutput_ctr]

/-! #### rabbit and chacha20 (43_rabbit.md R540, R542; 45_chacha20.md R597) -/

/-- eng.rabbitWork after `k` blocks (43_rabbit.md R540). -/
theorem engineAfter_rabbit_work (s : State) :
    ∀ k, (engineAfter .rabbit s k).rabbitWork = rabbitAfter (operandsOf s) k
  | 0 => rfl
  | k + 1 => by
    rw [engineAfter_succ, rabbitAfter, ← engineAfter_rabbit_work s k]
    rfl

theorem computedOutput_rabbit {s : State} (hc : checkCommand rabbitRecipe s = none) :
    computedOutput rabbitRecipe s = rabbitOutput s := by
  refine computedOutput_eq_xorStream (reachesEnd_rabbit hc) rfl rfl (fun _ => length_rabbitExtract _) fun k hblk => ?_
  rw [engineAfter_succ, hblk]
  refine ⟨congrArg (· + 1) hblk, ?_⟩
  rw [rabbitAfter, ← engineAfter_rabbit_work s k]
  rfl

theorem computedOutput_chacha (s : State) : computedOutput chachaRecipe s = chachaOutput s := by
  refine computedOutput_eq_xorStream (reachesEnd_chacha s) rfl rfl (fun _ => length_chachaBlock _) fun k hblk => ?_
  rw [engineAfter_succ, hblk]
  refine ⟨congrArg (· + 1) hblk, ?_⟩
  simp only [recipeOf, chachaRecipe, chachaUnit, emit, hblk]

/-! #### Decryption by the same command (R439, R543, R599) -/

/-- The command writes its message XORed with a keystream that its operands alone decide. -/
structure XorsKeystream (i : Instr) (b : Nat) (ks : Operands → Nat → List Byte) : Prop where
  ne_rng : i ≠ .rng
  inLen : ∀ n, (recipeOf i).inLen n = n
  outLen : ∀ n, (recipeOf i).outLen n = n
  output : ∀ s, checkCommand (recipeOf i) s = none →
    computedOutput (recipeOf i) s = xorStream b (ks (operandsOf s)) s

theorem xorsKeystream_ctr (v : Variant) : XorsKeystream (ctrOf v) (blockBytes v) (ctrKeystream v) where
  ne_rng := ctrOf_ne_rng v
  inLen _ := by rw [recipeOf_ctrOf]; rfl
  outLen _ := by rw [recipeOf_ctrOf]; rfl
  output s _ := by rw [recipeOf_ctrOf, computedOutput_ctr, ctrOutput]

theorem xorsKeystream_rabbit :
    XorsKeystream .rabbit 16 fun o i => rabbitExtract (rabbitAfter o (i + 1)).x where
  ne_rng := by decide
  inLen _ := rfl
  outLen _ := rfl
  output _ := computedOutput_rabbit

theorem xorsKeystream_chacha : XorsKeystream .chacha20 64 fun o i => chachaBlock (chachaLoad o i) where
  ne_rng := by decide
  inLen _ := rfl
  outLen _ := rfl
  output s _ := computedOutput_chacha s

/-- Over a message that is another one's output under the same keystream, the output is that other message: each
keystream byte cancels itself. -/
theorem xorStream_cancel {b : Nat} {ks : Nat → List Byte} {s t : State} (hlen : s.len = t.len)
    (hin : readBytes t.mem t.src 0 t.len.toNat = xorStream b ks s) :
    xorStream b ks t = readBytes s.mem s.src 0 s.len.toNat := by
  rw [← hlen] at hin
  apply List.ext_getElem (by simp [xorStream, hlen])
  intro j h1 h2
  have hj : j < s.len.toNat := by simpa using h2
  have hbyte : inputByte t j = inputByte s j ^^^ (ks (j / b)).getD (j % b) 0 := by
    simpa [readBytes, xorStream, inputByte, hj] using congrArg (·[j]?) hin
  simp only [xorStream, readBytes, List.getElem_map, List.getElem_range, hbyte, Nat.zero_add, BitVec.xor_assoc,
    BitVec.xor_self, BitVec.xor_zero]
  rfl

/-- A runnable command that XORs a keystream completes with the XORed message in its output range. -/
theorem XorsKeystream.written {i : Instr} {b : Nat} {ks : Operands → Nat → List Byte} (hk : XorsKeystream i b ks)
    {s t : State} (h : Runnable i s) (hm : s.mem.wf = true) (hx : exec i s = .next t) :
    readBytes t.mem s.dst 0 s.len.toNat = xorStream b (ks (operandsOf s)) s := by
  rw [exec_runnable hk.ne_rng h] at hx
  cases hx
  obtain ⟨⟨-, -, hcheck⟩, -⟩ := h
  have hwritten := readBytes_completedWith hm hk.ne_rng hcheck
  rw [hk.outLen] at hwritten
  rw [hwritten, hk.output s hcheck]

/-- Settles O53: each of the three families XORs a keystream of its operands, which cancels in the second run. -/
theorem streamCommandsDecryptThemselves : Obligations.StreamCommandsDecryptThemselves := by
  unfold Obligations.StreamCommandsDecryptThemselves
  intro i s₁ s₂ t₁ t₂ hfamily h₁ h₂ hm₁ hm₂ hkey hnonce hctr hlen hx₁ hx₂ hin
  have ho : operandsOf s₁ = operandsOf s₂ := by simp only [operandsOf, keyBytes, nonceBytes, hkey, hnonce, hctr, hlen]
  obtain ⟨b, ks, hk⟩ : ∃ b ks, XorsKeystream i b ks := by
    obtain rfl | rfl | ⟨v, rfl⟩ := hfamily
    · exact ⟨_, _, xorsKeystream_rabbit⟩
    · exact ⟨_, _, xorsKeystream_chacha⟩
    · exact ⟨_, _, xorsKeystream_ctr v⟩
  rw [hk.written h₁ hm₁ hx₁, inputBytes, hk.inLen, ho] at hin
  rw [hk.written h₂ hm₂ hx₂, inputBytes, hk.inLen, xorStream_cancel hlen hin]

end Sys2Proof.Machine

/-! ### Proofs: the block cipher family and bc.enc -/

namespace Sys2Proof.Machine

/-! #### bc.enc (42_block_cipher.md R491) -/

/-- The one unit of bc.enc appends E_v of the block at SRC to an output still empty. -/
theorem computedOutput_enc (v : Variant) (s : State) : computedOutput (encRecipe v) s = encOutput v s := by
  rw [encOutput, encryptBlock]
  rfl

/-- Settles O22: bc.enc completes with what it computes, in its one unit. -/
theorem encCompletesWithBlock : Obligations.EncCompletesWithBlock := by
  unfold Obligations.EncCompletesWithBlock
  intro v s h
  rw [exec_runnable (encOf_ne_rng v) h, recipeOf_encOf, computedOutput_enc]

/-! #### A round can be undone (R482, R487) -/

section
variable {n : Nat}

theorem rotateRight_leftInverse_rotateLeft (r : Nat) :
    Function.LeftInverse (fun x : BitVec n => x.rotateRight r) (fun x => x.rotateLeft r) := by
  intro x
  ext i hi
  have hr := Nat.mod_lt r (show n > 0 by omega)
  rw [BitVec.getElem_rotateRight]
  split <;> rw [BitVec.getElem_rotateLeft]
  · rw [dif_neg (by omega)]
    congr 1
    omega
  · rw [dif_pos (by omega)]
    congr 1
    omega

theorem rotateLeft_injective (r : Nat) : Function.Injective fun x : BitVec n => x.rotateLeft r :=
  (rotateRight_leftInverse_rotateLeft r).injective

/-- On the finitely many words of a width, a rotation that undoes another is undone by it. -/
theorem rotateRight_injective (r : Nat) : Function.Injective fun x : BitVec n => x.rotateRight r :=
  ((rotateRight_leftInverse_rotateLeft r).rightInverse_of_surjective
    (Finite.surjective_of_injective (rotateLeft_injective r))).injective

/-- The new x, known from the result, gives back y, and then x. -/
theorem speckRound_injective (k : BitVec n) : Function.Injective (speckRound · k) := by
  intro p q h
  obtain ⟨hx, hy⟩ := Prod.mk.inj h
  rw [hx, BitVec.xor_left_inj] at hy
  have hsnd := rotateLeft_injective 3 hy
  rw [hsnd, BitVec.xor_left_inj, BitVec.add_left_inj] at hx
  exact Prod.ext (rotateRight_injective 8 hx) hsnd

/-- The result keeps x, which gives back y. -/
theorem simonRound_injective (k : BitVec n) : Function.Injective (simonRound · k) := by
  intro p q h
  obtain ⟨hy, hfst⟩ := Prod.mk.inj h
  rw [hfst, BitVec.xor_left_inj, BitVec.xor_left_inj] at hy
  exact Prod.ext hfst hy

theorem foldl_injective {α β : Type} {f : α → β → α} (hf : ∀ b, Function.Injective (f · b)) :
    ∀ l : List β, Function.Injective (l.foldl f)
  | [] => Function.injective_id
  | b :: l => (foldl_injective hf l).comp (hf b)

theorem rounds_injective (v : Variant) (rk : List (BitVec n)) : Function.Injective (rounds v rk) := by
  refine foldl_injective (fun k => ?_) rk
  split
  · exact speckRound_injective k
  · exact simonRound_injective k

end

/-! #### A block is its pair of words (R470) -/

section
variable {n : Nat} (hn : 8 ∣ n)

theorem wordsLE_two {block : List Byte} (h : block.length = n / 8 * 2) :
    wordsLE n 2 block = [(readPair n block).2, (readPair n block).1] := by
  have hlast : (block.drop (n / 8)).take (n / 8) = block.drop (n / 8) :=
    List.take_of_length_le (by rw [List.length_drop]; omega)
  simp only [wordsLE, groups, hlast, List.map_cons, List.map_nil, readPair]

include hn

theorem writePair_readPair {block : List Byte} (h : block.length = n / 8 * 2) :
    writePair (readPair n block) = block := by
  rw [writePair, ← wordsLE_two h, bytesLE_wordsLE hn h]

theorem readPair_writePair (p : BitVec n × BitVec n) : readPair n (writePair p) = p := by
  have hlen : (writePair p).length = n / 8 * 2 := by
    rw [writePair, length_bytesLE]
    exact Nat.mul_comm _ _
  have hwords : [(readPair n (writePair p)).2, (readPair n (writePair p)).1] = [p.2, p.1] :=
    (wordsLE_two hlen).symm.trans (wordsLE_bytesLE hn [p.2, p.1])
  injection hwords with hy hx
  injection hx with hx
  exact Prod.ext hx hy

/-- Reading, the rounds and writing back can each be undone. -/
theorem eq_of_writePair_rounds_eq {v : Variant} {rk : List (BitVec n)} {x y : List Byte}
    (hx : x.length = n / 8 * 2) (hy : y.length = n / 8 * 2)
    (h : writePair (rounds v rk (readPair n x)) = writePair (rounds v rk (readPair n y))) : x = y := by
  have hpairs := rounds_injective v rk (Function.LeftInverse.injective (readPair_writePair hn) h)
  rw [← writePair_readPair hn hx, hpairs, writePair_readPair hn hy]

end

/-! #### E_v (R490) -/

/-- Under a variant's round keys no two blocks give the same block. -/
theorem eq_of_encryptWith_eq {v : Variant} {key x y : List Byte} (hx : x.length = blockBytes v)
    (hy : y.length = blockBytes v) (h : encryptWith v (roundKeys v key) x = encryptWith v (roundKeys v key) y) :
    x = y := by
  unfold roundKeys at h
  split at h
  · next h8 =>
    rw [h8] at hx hy
    exact eq_of_writePair_rounds_eq (by decide) hx hy h
  · next h8 =>
    rw [(blockBytes_cases v).resolve_left h8] at hx hy
    exact eq_of_writePair_rounds_eq (by decide) hx hy h

/-- Settles O54: a block's length is its variant's, and reading, rounds and writing can be undone. -/
theorem blockFunctionIsPermutation : Obligations.BlockFunctionIsPermutation := by
  unfold Obligations.BlockFunctionIsPermutation
  intro v key x y hx hy
  exact ⟨length_encryptWith v key x, eq_of_encryptWith_eq hx hy⟩

end Sys2Proof.Machine

/-! ### Proofs: rabbit completes with its output (43_rabbit.md R540, R542) -/

namespace Sys2Proof.Machine

/-- Settles O23: rabbit completes with what it computes, and passing its checks makes LEN a whole number of blocks,
so what it computes is the whole message XORed with the blocks extracted. -/
theorem rabbitCompletesWithXoredKeystream : Obligations.RabbitCompletesWithXoredKeystream := by
  unfold Obligations.RabbitCompletesWithXoredKeystream
  intro s h
  have ⟨⟨_, _, hcheck⟩, _⟩ := h
  calc exec .rabbit s
    _ = .next (completedWith (computedOutput rabbitRecipe s) s) := exec_runnable (by decide) h
    _ = .next (completedWith (rabbitOutput s) s) := by rw [computedOutput_rabbit hcheck]

end Sys2Proof.Machine

/-! ### Proofs: trivium completes with its output (44_trivium.md R565 to R568) -/

namespace Sys2Proof.Machine

/-- Keystream byte `j`, the weighted sum of its bits z_(8j+1) .. z_(8j+8) (R566). -/
def trivKeyByte (o : Operands) (j : Nat) : Byte := BitVec.ofNat 8 (bitsNat (fun b => trivKeyBit o (8 * j + b)) 8)

/-- The first `n` keystream bytes. -/
def trivKeystream (o : Operands) (n : Nat) : List Byte := (List.range n).map (trivKeyByte o)

@[simp] theorem length_trivKeystream (o : Operands) (n : Nat) : (trivKeystream o n).length = n := by
  simp [trivKeystream]

/-! #### The generator from step `n` on yields the keystream from there on -/

/-- `k` more bits, the first of weight 2^w, complete the sum of `w` bits to that of `w + k`. -/
theorem bitsNat_add_trivBits (o : Operands) (n : Nat) : ∀ k w,
    bitsNat (fun b => trivKeyBit o (n + b)) w + (trivBits k w (trivAfter o (n + w))).1
      = bitsNat (fun b => trivKeyBit o (n + b)) (w + k)
  | 0, _ => rfl
  | k + 1, w => by
    rw [show w + (k + 1) = w + 1 + k by omega, ← bitsNat_add_trivBits o n k (w + 1), bitsNat, Nat.add_assoc]
    rfl

/-- `k` bits take `k` steps. -/
theorem trivBits_snd (o : Operands) (n : Nat) : ∀ k w, (trivBits k w (trivAfter o n)).2 = trivAfter o (n + k)
  | 0, _ => rfl
  | k + 1, w => by
    rw [show n + (k + 1) = n + 1 + k by omega, ← trivBits_snd o (n + 1) k (w + 1)]
    rfl

theorem trivBits_eight (o : Operands) (j : Nat) :
    BitVec.ofNat 8 (trivBits 8 0 (trivAfter o (8 * j))).1 = trivKeyByte o j := by
  rw [trivKeyByte, ← Nat.zero_add 8, ← bitsNat_add_trivBits, bitsNat, Nat.zero_add, Nat.zero_add, Nat.add_zero]

/-- The `k` bytes after the first `j` continue the keystream (R566). -/
theorem trivKeystream_append_trivBytes (o : Operands) : ∀ k j,
    trivKeystream o j ++ (trivBytes k (trivAfter o (8 * j))).1 = trivKeystream o (j + k)
  | 0, _ => List.append_nil _
  | k + 1, j => by
    have hbyte : trivKeystream o j ++ [trivKeyByte o j] = trivKeystream o (j + 1) := by
      simp [trivKeystream, List.range_succ]
    rw [trivBytes, trivBits_eight, trivBits_snd, ← Nat.mul_succ, List.append_cons, hbyte,
      trivKeystream_append_trivBytes o k (j + 1), Nat.add_assoc, Nat.add_comm 1]

/-- `k` bytes take `8 k` steps. -/
theorem trivBytes_snd (o : Operands) : ∀ k j,
    (trivBytes k (trivAfter o (8 * j))).2 = trivAfter o (8 * (j + k))
  | 0, _ => rfl
  | k + 1, j => by
    rw [trivBytes, trivBits_snd, ← Nat.mul_succ, trivBytes_snd o k (j + 1), Nat.add_assoc, Nat.add_comm 1]

/-! #### The engine word by word (R567, R568) -/

/-- eng.triv after `k` words of eight bytes. -/
theorem engineAfter_trivium_triv (s : State) :
    ∀ k, (engineAfter .trivium s k).triv = trivAfter (operandsOf s) (8 * (8 * k))
  | 0 => by simp only [engineAfter, unitsFrom, recipeOf, triviumRecipe, triviumSetup, trivAfter]
  | k + 1 => by
    rw [Nat.mul_succ 8 k, ← trivBytes_snd, ← engineAfter_trivium_triv s k, engineAfter_succ]
    rfl

/-- eng.out after `k` words: as much of their keystream as LEN takes. -/
theorem engineAfter_trivium_out (s : State) : ∀ k,
    (engineAfter .trivium s k).out = (trivKeystream (operandsOf s) (8 * k)).take s.len.toNat
  | 0 => by
    rw [Nat.mul_zero, trivKeystream, List.range_zero, List.map_nil, List.take_nil]
    rfl
  | k + 1 => by
    have hout := engineAfter_trivium_out s k
    have hrest : s.len.toNat - (engineAfter .trivium s k).off = s.len.toNat - 8 * k := by
      rw [← engineAfter_length, hout, List.length_take, length_trivKeystream]
      omega
    have hunit : (engineAfter .trivium s (k + 1)).out = (engineAfter .trivium s k).out
        ++ (trivBytes 8 (engineAfter .trivium s k).triv).1.take
          (s.len.toNat - (engineAfter .trivium s k).off) := by
      rw [engineAfter_succ]
      rfl
    rw [hunit, hout, hrest, engineAfter_trivium_triv, Nat.mul_succ, ← trivKeystream_append_trivBytes,
      List.take_append, length_trivKeystream]

theorem computedOutput_trivium (s : State) : computedOutput triviumRecipe s = triviumOutput s := by
  have hcovers := (ceilDiv_covers (b := 8) (by decide) s.len.toNat).1
  calc computedOutput triviumRecipe s
    _ = (trivKeystream (operandsOf s) (8 * ceilDiv s.len.toNat 8)).take s.len.toNat :=
      engineAfter_trivium_out s _
    _ = trivKeystream (operandsOf s) s.len.toNat := by
      rw [trivKeystream, ← List.map_take, List.take_range, Nat.min_eq_left hcovers]
      rfl
    _ = triviumOutput s := rfl

/-- Settles O24: trivium completes with what it computes, word by word the keystream up to LEN. -/
theorem triviumCompletesWithKeystream : Obligations.TriviumCompletesWithKeystream := by
  unfold Obligations.TriviumCompletesWithKeystream
  intro s h
  calc exec .trivium s
    _ = .next (completedWith (computedOutput triviumRecipe s) s) := exec_runnable (by decide) h
    _ = .next (completedWith (triviumOutput s) s) := by rw [computedOutput_trivium]

end Sys2Proof.Machine

/-! ### Proofs: chacha20 completes with its output (45_chacha20.md R597, R598) -/

namespace Sys2Proof.Machine

/-- Settles O25: chacha20 completes with what it computes, block by block the message XORed with the block of
counter word CTR plus the block's number. -/
theorem chachaCompletesWithXoredKeystream : Obligations.ChachaCompletesWithXoredKeystream := by
  unfold Obligations.ChachaCompletesWithXoredKeystream
  intro s h
  calc exec .chacha20 s
    _ = .next (completedWith (computedOutput chachaRecipe s) s) := exec_runnable (by decide) h
    _ = .next (completedWith (chachaOutput s) s) := by rw [computedOutput_chacha]

end Sys2Proof.Machine

/-! ### Proofs: sha512 completes with the digest of the padded message (46_sha512.md R628 to R630) -/

namespace Sys2Proof.Machine

/-! #### The hash value block by block (R629) -/

/-- One more group at the end. -/
theorem groups_succ (w : Nat) : ∀ (count : Nat) (bs : List Byte),
    groups w (count + 1) bs = groups w count bs ++ [(bs.drop (w * count)).take w]
  | 0, _ => rfl
  | count + 1, bs => by
    rw [groups, groups_succ w count, List.drop_drop, Nat.mul_succ, Nat.add_comm w]
    rfl

/-- The hash value after the first `k` blocks of the padded message `P`. -/
def shaHash (P : List Byte) (k : Nat) : Vector DWord 8 := (groups 128 k P).foldl shaCompress shaInit

theorem shaHash_succ (P : List Byte) (k : Nat) :
    shaHash P (k + 1) = shaCompress (shaHash P k) ((P.drop (128 * k)).take 128) := by
  rw [shaHash, groups_succ, List.foldl_concat]
  rfl

/-! #### The padded message (R628): whole blocks of the message, then the final buffer -/

/-- The least multiple of 128 that the padding reaches is the whole blocks and those of the final buffer. -/
theorem paddedBlocks (L : Nat) : (L + 17 + 127) / 128 = L / 128 + shaFinalBlocks L := by
  rcases shaFinalBlocks_cases L with ⟨hle, e⟩ | ⟨hlt, e⟩ <;> rw [e] <;> omega

theorem shaMessage_eq_append_shaPad (M : List Byte) :
    shaMessage M = M.take (128 * (M.length / 128)) ++ shaPad M.length (M.drop (128 * (M.length / 128))) := by
  have hzeros : 128 * (M.length / 128 + shaFinalBlocks M.length) - (M.length + 17)
      = 128 * shaFinalBlocks M.length - (M.length - 128 * (M.length / 128)) - 17 := by omega
  rw [shaPad, List.length_drop, ← List.append_assoc, List.take_append_drop, shaMessage, shaZeros, paddedBlocks,
    hzeros]

theorem length_shaMessage (M : List Byte) :
    (shaMessage M).length = 128 * (M.length / 128 + shaFinalBlocks M.length) := by
  rw [shaMessage_eq_append_shaPad, List.length_append, List.length_take,
    length_shaPad (by rw [List.length_drop]; omega)]
  omega

theorem shaMessage_block {M : List Byte} {k : Nat} (hk : k < M.length / 128) :
    ((shaMessage M).drop (128 * k)).take 128 = (M.drop (128 * k)).take 128 := by
  rw [shaMessage, List.drop_append_of_le_length (by omega),
    List.take_append_of_le_length (by rw [List.length_drop]; omega)]

theorem shaMessage_finalBuffer (M : List Byte) :
    (shaMessage M).drop (128 * (M.length / 128)) = shaPad M.length (M.drop (128 * (M.length / 128))) := by
  rw [shaMessage_eq_append_shaPad, List.drop_left' (by rw [List.length_take]; omega)]

/-! #### What a unit does, by the block it is at -/

section
variable {o : Operands} {e : Eng} {p : List Byte}

theorem shaUnit_message (h : e.blk < e.total.toNat / 128) :
    shaUnit o e p = { e with buf := p, H := shaCompress e.H p, blk := e.blk + 1 } := if_pos h

theorem shaUnit_pad (h : e.blk = e.total.toNat / 128) :
    shaUnit o e p = { e with buf := shaPad e.total.toNat p, blk := e.blk + 1 } := by
  rw [shaUnit, if_neg h.not_lt, if_pos h]

theorem shaUnit_more (h : e.total.toNat / 128 < e.blk) (hbuf : e.buf.drop 128 ≠ []) :
    shaUnit o e p
      = { e with H := shaCompress e.H (e.buf.take 128), buf := e.buf.drop 128, blk := e.blk + 1 } := by
  rw [shaUnit, if_neg h.not_gt, if_neg h.ne', if_neg hbuf]

theorem shaUnit_last (h : e.total.toNat / 128 < e.blk) (hbuf : e.buf.drop 128 = []) :
    (shaUnit o e p).out = e.out ++ shaDigest (shaCompress e.H (e.buf.take 128)) := by
  rw [shaUnit, if_neg h.not_gt, if_neg h.ne', if_pos hbuf]
  rfl

end

/-! #### The engine block by block (R629, R630) -/

/-- The padded message of the input range. -/
def paddedInput (s : State) : List Byte := shaMessage (inputBytes .sha512 s)

theorem length_inputBytes_sha (s : State) : (inputBytes .sha512 s).length = s.len.toNat := length_readBytes _ _ _ _

theorem length_paddedInput (s : State) :
    (paddedInput s).length = 128 * (s.len.toNat / 128 + shaFinalBlocks s.len.toNat) := by
  rw [paddedInput, length_shaMessage, length_inputBytes_sha]

/-- A unit before the final buffer reads the next block of the message, or what is left of it. -/
theorem chunkBytes_sha {s : State} {k : Nat} (hk : k ≤ s.len.toNat / 128) :
    chunkBytes shaRecipe s k = ((inputBytes .sha512 s).drop (128 * k)).take 128 := by
  have hstart : min (128 * k) s.len.toNat = 128 * k := by omega
  have hlen := length_inputBytes_sha s
  calc chunkBytes shaRecipe s k
    _ = ((inputBytes .sha512 s).drop (min (128 * k) s.len.toNat)).take
          (min (128 * k + 128) s.len.toNat - min (128 * k) s.len.toNat) := chunkBytes_eq_slice .sha512 s k
    _ = ((inputBytes .sha512 s).drop (128 * k)).take 128 := by
      rw [hstart, List.take_eq_take_iff, List.length_drop, hlen]
      omega

theorem engineAfter_sha_succ (s : State) (k : Nat) :
    engineAfter .sha512 s (k + 1)
      = shaUnit (operandsOf s) (engineAfter .sha512 s k)
          (chunkBytes shaRecipe s (engineAfter .sha512 s k).blk) :=
  engineAfter_succ .sha512 s k

/-- While whole blocks of the message are left, eng.H is the hash value of those read. -/
theorem engineAfter_sha_message (s : State) : ∀ k, k ≤ s.len.toNat / 128 →
    (engineAfter .sha512 s k).H = shaHash (paddedInput s) k
  | 0, _ => rfl
  | k + 1, hk => by
    obtain ⟨hblk, -, htotal, -⟩ := engineAfter_sha s k (by omega)
    have hblock : ((paddedInput s).drop (128 * k)).take 128 = chunkBytes shaRecipe s k := by
      rw [chunkBytes_sha (by omega), paddedInput, shaMessage_block (by rw [length_inputBytes_sha]; exact hk)]
    rw [engineAfter_sha_succ, shaUnit_message (by rw [hblk, htotal]; exact hk), hblk, shaHash_succ, hblock,
      ← engineAfter_sha_message s k (by omega)]

section
variable {s : State} {q : Nat} (hq : s.len.toNat / 128 = q)
include hq

/-- The unit after the last whole block builds the final buffer: the padded message from there on. -/
theorem engineAfter_sha_pad :
    (engineAfter .sha512 s (q + 1)).H = shaHash (paddedInput s) q
      ∧ (engineAfter .sha512 s (q + 1)).buf = (paddedInput s).drop (128 * q) := by
  obtain ⟨hblk, -, htotal, -⟩ := engineAfter_sha s q (by omega)
  have hlen := length_inputBytes_sha s
  have htail : chunkBytes shaRecipe s q = (inputBytes .sha512 s).drop (128 * q) := by
    rw [chunkBytes_sha hq.ge, List.take_of_length_le (by rw [List.length_drop, hlen]; omega)]
  have hbuf := shaMessage_finalBuffer (inputBytes .sha512 s)
  rw [hlen, hq, ← htail] at hbuf
  rw [engineAfter_sha_succ, shaUnit_pad (by rw [hblk, htotal, hq]), hblk, htotal, paddedInput, hbuf]
  exact ⟨engineAfter_sha_message s q hq.ge, rfl⟩

/-- Once the final buffer is built, eng.H is the hash value of the blocks compressed and eng.buf the rest of the
padded message. -/
theorem engineAfter_sha_final : ∀ j, j < shaFinalBlocks s.len.toNat →
    (engineAfter .sha512 s (q + j + 1)).H = shaHash (paddedInput s) (q + j)
      ∧ (engineAfter .sha512 s (q + j + 1)).buf = (paddedInput s).drop (128 * (q + j))
  | 0, _ => engineAfter_sha_pad hq
  | j + 1, hj => by
    obtain ⟨hblk, -, htotal, -⟩ := engineAfter_sha s (q + j + 1) (by omega)
    obtain ⟨hH, hbuf⟩ := engineAfter_sha_final j (by omega)
    have hrest : (engineAfter .sha512 s (q + j + 1)).buf.drop 128 = (paddedInput s).drop (128 * (q + j + 1)) := by
      rw [hbuf, List.drop_drop, Nat.mul_succ]
    have hmore : (engineAfter .sha512 s (q + j + 1)).buf.drop 128 ≠ [] := by
      rw [hrest, Ne, List.drop_eq_nil_iff, length_paddedInput]
      omega
    rw [← Nat.add_assoc, engineAfter_sha_succ, shaUnit_more (by rw [hblk, htotal]; omega) hmore, shaHash_succ,
      ← hH, ← hbuf]
    exact ⟨rfl, hrest⟩

/-- The unit of the last block of the final buffer outputs the digest. -/
theorem engineAfter_sha_last {f : Nat} (hf : shaFinalBlocks s.len.toNat = f + 1) :
    (engineAfter .sha512 s (q + f + 1 + 1)).out = shaDigest (shaHash (paddedInput s) (q + f + 1)) := by
  obtain ⟨hblk, hoff, htotal, -⟩ := engineAfter_sha s (q + f + 1) (by omega)
  obtain ⟨hH, hbuf⟩ := engineAfter_sha_final hq f (by omega)
  have hout : (engineAfter .sha512 s (q + f + 1)).out = [] :=
    List.eq_nil_of_length_eq_zero (by rw [engineAfter_length, hoff])
  have hlast : (engineAfter .sha512 s (q + f + 1)).buf.drop 128 = [] := by
    rw [hbuf, List.drop_drop, List.drop_eq_nil_iff, length_paddedInput]
    omega
  rw [engineAfter_sha_succ, shaUnit_last (by rw [hblk, htotal]; omega) hlast, hout, hH, hbuf, ← shaHash_succ,
    List.nil_append]

end

/-- What sha512 computes is the digest of all blocks of the padded message. -/
theorem computedOutput_sha (s : State) : computedOutput shaRecipe s = shaOutput s := by
  obtain ⟨f, hf⟩ : ∃ f, shaFinalBlocks s.len.toNat = f + 1 := by
    rcases shaFinalBlocks_cases s.len.toNat with ⟨-, e⟩ | ⟨-, e⟩ <;> exact ⟨_, e⟩
  have hunits : (recipeOf .sha512).units s.len.toNat = s.len.toNat / 128 + f + 1 + 1 := by
    simp only [recipeOf, shaRecipe, hf]
    omega
  have hblocks : (paddedInput s).length / 128 = s.len.toNat / 128 + f + 1 := by
    rw [length_paddedInput, hf]
    omega
  calc computedOutput shaRecipe s
    _ = (engineAfter .sha512 s (s.len.toNat / 128 + f + 1 + 1)).out := by
      rw [← hunits]
      rfl
    _ = shaDigest (shaHash (paddedInput s) ((paddedInput s).length / 128)) := by
      rw [engineAfter_sha_last rfl hf, hblocks]
    _ = shaOutput s := rfl

/-- Settles O26: sha512 completes with what it computes, the hash value of the padded message's blocks in order. -/
theorem sha512CompletesWithDigest : Obligations.Sha512CompletesWithDigest := by
  unfold Obligations.Sha512CompletesWithDigest
  intro s h
  calc exec .sha512 s
    _ = .next (completedWith (computedOutput shaRecipe s) s) := exec_runnable (by decide) h
    _ = .next (completedWith (shaOutput s) s) := by rw [computedOutput_sha]

end Sys2Proof.Machine

/-! ### Proofs: the steps of the rng command and the entropy port (47_rng.md R660 to R673) -/

namespace Sys2Proof.Machine

/-! #### The entropy port (R660, R661) -/

/-- The port holds a response, and the request it answers is closed. -/
def holdResponse (r : Response) (s : State) : State := { s with rng := { s.rng with req := none, resp := some r } }

theorem deliver_taken {s : State} {q : Request} {r : Response} (hq : s.rng.req = some q) (ha : answers q r = true) :
    deliver r s = holdResponse r s := by
  simp only [deliver, hq, ha, if_true, holdResponse]

theorem deliver_wrongKind {s : State} {q : Request} {r : Response} (hq : s.rng.req = some q)
    (ha : answers q r = false) : deliver r s = s := by
  simp only [deliver, hq, ha, Bool.false_eq_true, if_false]

theorem deliver_noRequest {s : State} (r : Response) (hq : s.rng.req = none) : deliver r s = s := by
  simp only [deliver, hq]

/-- Settles O37: a response is held or discarded, by the equations of `deliver`; a late one is no event. -/
theorem entropyResponseTakenOrDiscarded : Obligations.EntropyResponseTakenOrDiscarded := by
  unfold Obligations.EntropyResponseTakenOrDiscarded
  exact fun s r => ⟨fun q hq ha => congrArg _ (deliver_taken hq ha),
    fun q hq ha => congrArg _ (deliver_wrongKind hq ha), fun hq => congrArg _ (deliver_noRequest r hq), rfl⟩

/-! #### The engine's step in each phase of rng (R664 to R668) -/

section
variable {s : State}

theorem finishRng_unspoiled (hs : s.eng.spoiled = false) : finishRng s = complete s := by
  rcases finishRng_cases s with ⟨hn, -⟩ | ⟨-, e⟩
  · rw [hs] at hn
    cases hn
  · exact e

/-- An rng command that ends without completing leaves memory as its bytes made it (R668). -/
theorem settledMem_rng {c : Recipe} (hs : s.eng.spoiled = false) (hp : inRngPhase s) : settledMem c s = s.mem := by
  rcases hp with hp | hp | hp <;> simp [settledMem, hs, hp]

theorem rngInitStep_present (h : s.rng.resp = some .present) :
    rngInitStep s = if s.len.toNat = 0 then finishRng (takeInitResponse .ready s)
      else enterWait (takeInitResponse .ready s) := by
  simp only [rngInitStep, h]
  rfl

theorem rngInitStep_absent (h : s.rng.resp = some .absent) :
    rngInitStep s = failRunning rngRecipe .entropyAbsent (takeInitResponse .fatal s) := by
  simp only [rngInitStep, h]
  rfl

theorem rngWaitStep_nothingMissing (h : s.len.toNat ≤ s.eng.off) : rngWaitStep s = finishRng s := if_pos h

section
variable (ho : s.eng.off < s.len.toNat)
include ho

theorem rngWaitStep_noResponse (h : s.rng.resp = none) : rngWaitStep s = s := by
  simp only [rngWaitStep, Nat.not_le.mpr ho, if_false, h]

theorem rngWaitStep_transient (h : s.rng.resp = some .transient) : rngWaitStep s = enterDelay s := by
  simp only [rngWaitStep, Nat.not_le.mpr ho, if_false, h]
  rfl

theorem rngWaitStep_data {v : Byte} (h : s.rng.resp = some (.data v))
    (hbus : canWrite s (addrAt s.dst s.eng.off) = true) :
    rngWaitStep s = if s.eng.off + 1 = s.len.toNat then finishRng (storeRandom v s)
      else enterWait (storeRandom v s) := by
  simp only [rngWaitStep, Nat.not_le.mpr ho, if_false, h, hbus, if_true]
  rfl

theorem rngWaitStep_busError {v : Byte} (h : s.rng.resp = some (.data v))
    (hbus : canWrite s (addrAt s.dst s.eng.off) = false) : rngWaitStep s = failRunning rngRecipe .bus s := by
  simp only [rngWaitStep, Nat.not_le.mpr ho, if_false, h, hbus, Bool.false_eq_true]

end

theorem rngDelayStep_last (h : s.eng.retry = 1) : rngDelayStep s = enterWait s := by
  simp only [rngDelayStep, h, Nat.sub_self, if_true]

theorem rngDelayStep_more (h : 1 < s.eng.retry) : rngDelayStep s = countDown s := if_neg (by omega)

section
variable (hr : runs .rng s = true)
include hr

theorem exec_rngInit (hp : s.eng.phase = .rngInit) : exec .rng s = .next (rngInitStep s) := by
  simp only [exec, execRng, hp, hr, if_true]

theorem exec_rngWait (hp : s.eng.phase = .rngWait) : exec .rng s = .next (rngWaitStep s) := by
  simp only [exec, execRng, hp, hr, if_true]

theorem exec_rngDelay (hp : s.eng.phase = .rngDelay) : exec .rng s = .next (rngDelayStep s) := by
  simp only [exec, execRng, hp, hr, if_true]

end

/-- The engine's move steps the command it runs (10_state.md R140). -/
theorem engineMove_of_runs {i : Instr} (hp : s.eng.phase ≠ .idle) (hr : runs i s = true) (g : Nat) :
    engineMove g s = exec i { s with grain := g } := by
  have hi := runningCommand_of_runs hp hr
  cases hq : s.eng.phase with
  | idle => exact absurd hq hp
  | run | rngInit | rngWait | rngDelay => simp only [engineMove, hq, hi]

theorem engineMove_rngWait (hr : runs .rng s = true) (hp : s.eng.phase = .rngWait) (g : Nat) :
    engineMove g s = .next (rngWaitStep { s with grain := g }) := by
  rw [engineMove_of_runs (by rw [hp]; decide) hr]
  exact exec_rngWait hr hp

theorem engineMove_rngDelay (hr : runs .rng s = true) (hp : s.eng.phase = .rngDelay) (g : Nat) :
    engineMove g s = .next (rngDelayStep { s with grain := g }) := by
  rw [engineMove_of_runs (by rw [hp]; decide) hr]
  exact exec_rngDelay hr hp

end

/-! #### The obligations on one engine step -/

/-- Settles O28: a step of RNG_WAIT with one byte missing, and with none. -/
theorem rngCompletesWithLastByte : Obligations.RngCompletesWithLastByte := by
  unfold Obligations.RngCompletesWithLastByte
  intro s hp hr hs
  rw [exec_rngWait hr hp]
  refine ⟨fun v hlast hv hbus => ?_, fun hnone => ?_⟩
  · rw [rngWaitStep_data (by omega) hv hbus, if_pos hlast, finishRng_unspoiled (by exact hs)]
    rfl
  · rw [rngWaitStep_nothingMissing hnone, finishRng_unspoiled hs]

/-- Settles O29: acceptance after the checks by `accept_checked`, and the phase it enters by rng.init. -/
theorem rngStartsByInitState : Obligations.RngStartsByInitState := by
  unfold Obligations.RngStartsByInitState
  intro s hp hc hblock hdevice
  have hexec : exec .rng s = .next (enterRng (latch .rng (openCommand (encode .rng) s))) := by
    rw [exec_idle .rng hp, if_pos rfl]
    refine (accept_checked .rng enterRng hc).trans ?_
    rw [if_neg (Bool.eq_false_iff.mp hblock), if_neg (Bool.eq_false_iff.mp hdevice)]
  refine ⟨_, hexec, ?_⟩
  unfold enterRng
  split
  · rename_i huninit
    exact ⟨rfl, rfl, rfl, rfl, rfl, rfl, rfl, rfl, fun _ => ⟨rfl, rfl⟩,
      fun hready => (by cases huninit.symm.trans hready)⟩
  all_goals
    rename_i hinit
    exact ⟨rfl, rfl, rfl, rfl, rfl, rfl, rfl, rfl, fun huninit => (by cases hinit.symm.trans huninit),
      fun _ => ⟨rfl, rfl⟩⟩

/-- Settles O30: the equations of `rngInitStep` for PRESENT and ABSENT. -/
theorem rngInitResponse : Obligations.RngInitResponse := by
  unfold Obligations.RngInitResponse
  intro s hp hr hs
  rw [exec_rngInit hr hp]
  refine ⟨fun hv hlen => ?_, fun hv hlen hoff => ?_, fun hv => ?_⟩
  · rw [rngInitStep_present hv, if_pos hlen, finishRng_unspoiled (by exact hs)]
    rfl
  · rw [rngInitStep_present hv, if_neg (by omega)]
    exact ⟨_, rfl, rfl, rfl, if_pos (by rwa [← hoff] at hlen), rfl, rfl⟩
  · rw [rngInitStep_absent hv]
    exact ⟨_, rfl, rfl, settledMem_rng (s := takeInitResponse .fatal s) hs (.inl hp), rfl, rfl, rfl⟩

/-- Settles O31: a step of RNG_WAIT with DATA waiting and more than one byte missing. -/
theorem rngStoresByteAndAsksNext : Obligations.RngStoresByteAndAsksNext := by
  unfold Obligations.RngStoresByteAndAsksNext
  intro s v hp hr ho hv hbus
  rw [exec_rngWait hr hp, rngWaitStep_data (by omega) hv hbus, if_neg (by omega)]
  exact ⟨_, rfl, rfl, rfl, rfl, rfl, if_pos ho, rfl, rfl, rfl, rfl⟩

/-- Settles O32: TRANSIENT in RNG_WAIT, and the two steps of RNG_DELAY. -/
theorem rngRetriesAfterDelay : Obligations.RngRetriesAfterDelay := by
  unfold Obligations.RngRetriesAfterDelay
  refine ⟨fun s hp hr ho hv => ?_, fun s hp hr hmore => ?_, fun s hp hr hlast ho => ?_⟩
  · rw [exec_rngWait hr hp, rngWaitStep_transient ho hv]
    rfl
  · rw [exec_rngDelay hr hp, rngDelayStep_more hmore]
    rfl
  · rw [exec_rngDelay hr hp, rngDelayStep_last hlast, enterWait, if_pos ho]

/-- Settles O33: a step of RNG_WAIT whose byte the bus does not take. -/
theorem rngBusErrorKeepsWrittenBytes : Obligations.RngBusErrorKeepsWrittenBytes := by
  unfold Obligations.RngBusErrorKeepsWrittenBytes
  intro s v hp hr hs ho hv hbus
  rw [exec_rngWait hr hp, rngWaitStep_busError ho hv hbus]
  exact ⟨_, rfl, settledMem_rng hs (.inr (.inl hp)), rfl, rfl, rfl, rfl⟩

/-! #### What the moves leave of the entropy port -/

theorem writeReg_rng (r : Reg) (v : Word) (s : State) : (writeReg r v s).rng = s.rng := by
  rcases writeReg_cases r v s with e | e | e | ⟨-, e⟩ | ⟨-, e⟩ <;> rw [e]
  case inr.inr.inr.inr => cases r <;> rfl
  all_goals rfl

/-- Of the moves other than the engine's and reset only a response and a CMD write reach the entropy port. -/
theorem rng_act {m : Move} {s t : State} (he : ∀ g, m ≠ .engine g) (hr : m ≠ .reset) (h : act m s = .next t) :
    t.rng = s.rng ∨ (∃ r, m = .entropy r ∧ t.rng = (holdResponse r s).rng) ∨ ∃ v, writeCmd v s = .next t := by
  cases m with
  | regRead addr size => rw [hostRegRead_next h]; exact .inl rfl
  | regWrite addr size v =>
    rcases hostRegWrite_next h with rfl | ⟨r, rfl⟩ | ⟨-, hw⟩
    · exact .inl rfl
    · exact .inl (writeReg_rng r v s)
    · exact .inr (.inr ⟨v, hw⟩)
  | memRead a maintained => rw [hostMemRead_next h]; exact .inl rfl
  | memWrite a b maintained => rw [hostMemWrite_next h]; exact .inl rfl
  | engine g => exact absurd rfl (he g)
  | entropy r =>
    cases h
    rcases deliver_cases r s with e | ⟨q, -, -, e⟩ <;> rw [e]
    · exact .inl rfl
    · exact .inr (.inl ⟨r, rfl, rfl⟩)
  | lateEntropy r => cases h; exact .inl rfl
  | reset => exact absurd rfl hr

/-- Acceptance leaves rng.init (R663). -/
theorem rngInit_exec_idle {i : Instr} {s t : State} (hp : s.eng.phase = .idle) (h : exec i s = .next t) :
    t.rng.init = s.rng.init := by
  have henter : ∀ u : State, ((if i = .rng then enterRng else enterRun) u).rng.init = u.rng.init := fun u => by
    by_cases hi : i = .rng
    · rw [if_pos hi, enterRng]
      split <;> rfl
    · rw [if_neg hi]
      rfl
  rw [exec_idle i hp] at h
  rcases accept_cases i (recipeOf i) (if i = .rng then enterRng else enterRun) s with
    ⟨e, -, ha⟩ | ⟨-, ha⟩ | ⟨-, ha⟩ | ⟨-, ha⟩ <;> rw [ha] at h <;> cases h
  · rfl
  · exact henter _

theorem rngInit_writeCmd {v : Word} {s t : State} (hq : s.eng.phase ≠ .rngInit) (h : writeCmd v s = .next t) :
    t.rng.init = s.rng.init := by
  unfold writeCmd at h
  split at h
  · cases h
    rfl
  · split at h
    · by_cases hp : s.eng.phase = .idle
      · exact rngInit_exec_idle hp h
      · exact rngInit_exec hp hq h
    · cases h
      obtain ⟨e, hreject, -⟩ := rejectWord_eq_raiseError v ‹_› s
      rw [hreject]
      rfl

/-- Outside RNG_INIT no move but reset changes rng.init (10_state.md R133). -/
theorem rngInit_act {m : Move} {s t : State} (hq : s.eng.phase ≠ .rngInit) (hr : m ≠ .reset)
    (h : act m s = .next t) : t.rng.init = s.rng.init := by
  by_cases he : ∃ g, m = .engine g
  · obtain ⟨g, rfl⟩ := he
    rcases engineMove_next h with ⟨-, rfl⟩ | ⟨hp, i, -, hx⟩
    · rfl
    · exact rngInit_exec (s := { s with grain := g }) hp hq hx
  · rcases rng_act (fun g hg => he ⟨g, hg⟩) hr h with e | ⟨r, -, e⟩ | ⟨v, hw⟩
    · rw [e]
    · rw [e]
      rfl
    · exact rngInit_writeCmd hq hw

/-- Settles O36: in RNG_INIT rng.init is UNINIT, and outside it no move but reset changes it. -/
theorem fatalLastsUntilReset : Obligations.FatalLastsUntilReset := by
  unfold Obligations.FatalLastsUntilReset
  intro s t hinv hfatal hr h
  have hq : s.eng.phase ≠ .rngInit := fun hq => by
    have huninit := hinv.rngInit.1 hq
    rw [hfatal] at huninit
    cases huninit
  exact (rngInit_act (s := takeMove s) hq hr h).trans hfatal

/-- Settles O44: such a move leaves the command alone, by `leavesCommand_act`. -/
theorem onlyEngineOrResetEndsCommand : Obligations.OnlyEngineOrResetEndsCommand := by
  unfold Obligations.OnlyEngineOrResetEndsCommand
  intro s t hb he hr h
  exact (leavesCommand_act (s := takeMove s) hb he hr h).busy.trans hb

/-! #### An rng command that misses bytes (R666, R670, R671) -/

/-- A move that leaves the command alone and brings no byte leaves it missing the same bytes. -/
theorem AwaitsByte.of_leavesCommand {s t : State} (h : AwaitsByte s) (hl : LeavesCommand s t)
    (hv : ∀ v, t.rng.resp ≠ some (.data v)) : AwaitsByte t ∧ t.eng.off = s.eng.off := by
  have hphase : t.eng.phase = s.eng.phase := by rw [hl.eng]
  have hoff : t.eng.off = s.eng.off := by rw [hl.eng]
  have hruns : runs .rng t = runs .rng s := by rw [runs, hl.eng, runs]
  refine ⟨⟨hl.busy.trans h.busy, ?_, hruns.trans h.command, ?_, hv⟩, hoff⟩
  · rw [hphase]
    exact h.phase
  · rw [hoff, hl.len]
    exact h.missing

/-- Without a byte to store an engine step waits, or moves between RNG_WAIT and RNG_DELAY. -/
theorem AwaitsByte.of_engineMove {g : Nat} {s t : State} (h : AwaitsByte s) (hm : engineMove g s = .next t) :
    AwaitsByte t ∧ t.eng.off = s.eng.off := by
  rcases h.phase with hp | hp
  · rw [engineMove_rngWait h.command hp] at hm
    cases hm
    rcases rngWaitStep_cases { s with grain := g } with ⟨hnone, -⟩ | ⟨-, ⟨v, hv, -⟩ | ⟨-, e⟩ | e⟩
    · exact absurd h.missing (Nat.not_lt.mpr hnone)
    · exact absurd hv (h.noData v)
    · rw [e]
      exact ⟨⟨h.busy, .inr rfl, h.command, h.missing, nofun⟩, rfl⟩
    · rw [e]
      exact ⟨⟨h.busy, .inl hp, h.command, h.missing, h.noData⟩, rfl⟩
  · rw [engineMove_rngDelay h.command hp] at hm
    cases hm
    rcases rngDelayStep_cases { s with grain := g } with e | ⟨-, e⟩ <;> rw [e]
    · exact ⟨⟨h.busy, .inl rfl, h.command, h.missing, nofun⟩, rfl⟩
    · exact ⟨⟨h.busy, .inr hp, h.command, h.missing, h.noData⟩, rfl⟩

theorem AwaitsByte.of_act {m : Move} {s t : State} (h : AwaitsByte s) (hr : m ≠ .reset)
    (hd : ∀ v, m ≠ .entropy (.data v)) (ha : act m s = .next t) : AwaitsByte t ∧ t.eng.off = s.eng.off := by
  by_cases he : ∃ g, m = .engine g
  · obtain ⟨g, rfl⟩ := he
    exact h.of_engineMove ha
  have he' : ∀ g, m ≠ .engine g := fun g hg => he ⟨g, hg⟩
  refine h.of_leavesCommand (leavesCommand_act h.busy he' hr ha) fun v => ?_
  rcases rng_act he' hr ha with e | ⟨r, rfl, e⟩ | ⟨w, hw⟩
  · rw [e]
    exact h.noData v
  · rw [e]
    exact fun hv => hd v (congrArg _ (Option.some.inj hv))
  · rw [writeCmd_busy w h.busy] at hw
    cases hw
    exact h.noData v

/-- Settles O60: taking a move touches only the schedule, and the move is one of `AwaitsByte.of_act`. -/
theorem rngEndsOnlyByDataOrReset : Obligations.RngEndsOnlyByDataOrReset := by
  unfold Obligations.RngEndsOnlyByDataOrReset
  intro s t h hr hd ha
  exact (⟨h.busy, h.phase, h.command, h.missing, h.noData⟩ : AwaitsByte (takeMove s)).of_act hr hd ha

end Sys2Proof.Machine

/-! ### Proofs: runs of an rng command whose source is silent, always fails, or answers (47_rng.md R665 to R672) -/

namespace Sys2Proof.Machine

/-! #### Runs -/

theorem runFor_succ {s t : State} (h : step s = .next t) (k : Nat) : runFor (k + 1) s = runFor k t := by
  simp only [runFor, h]

theorem runFor_add {t : State} (b : Nat) : ∀ {a : Nat} {s : State}, runFor a s = .next t →
    runFor (a + b) s = runFor b t
  | 0, s, h => by
    cases h
    rw [Nat.zero_add]
  | a + 1, s, h => by
    rw [Nat.add_right_comm, runFor]
    rw [runFor] at h
    cases hs : step s with
    | next u =>
      rw [hs] at h
      exact runFor_add b h
    | fault r | refused r =>
      rw [hs] at h
      cases h

/-- What each step allows and keeps lasts for any number of steps. -/
theorem runFor_keeps {P : State → Prop} (hstep : ∀ s, P s → ∃ t, step s = .next t ∧ P t) :
    ∀ (n : Nat) (s : State), P s → ∃ t, runFor n s = .next t ∧ P t
  | 0, s, h => ⟨s, rfl, h⟩
  | n + 1, s, h => by
    obtain ⟨t, hs, ht⟩ := hstep s h
    rw [runFor_succ hs]
    exact runFor_keeps hstep n t ht

section
variable {s : State} {rest : List Move}

theorem step_response {r : Response} {q : Request} (ha : s.agenda = .entropy r :: rest) (hq : s.rng.req = some q)
    (hanswer : answers q r = true) : step s = .next { holdResponse r s with agenda := rest } :=
  (step_cons ha).trans (congrArg _ (deliver_taken (by exact hq) hanswer))

theorem step_rngWait {g : Nat} (ha : s.agenda = .engine g :: rest) (hr : runs .rng s = true)
    (hp : s.eng.phase = .rngWait) : step s = .next (rngWaitStep { s with agenda := rest, grain := g }) := by
  rw [step_cons ha]
  exact engineMove_rngWait (s := { s with agenda := rest }) hr hp g

theorem step_rngDelay {g : Nat} (ha : s.agenda = .engine g :: rest) (hr : runs .rng s = true)
    (hp : s.eng.phase = .rngDelay) : step s = .next (rngDelayStep { s with agenda := rest, grain := g }) := by
  rw [step_cons ha]
  exact engineMove_rngDelay (s := { s with agenda := rest }) hr hp g

end

/-- Settles O34, by induction on the number of engine steps. -/
theorem rngMayWaitForEver : Obligations.RngMayWaitForEver := by
  unfold Obligations.RngMayWaitForEver
  intro k
  induction k with
  | zero => exact fun s _ hb hp _ _ _ => ⟨s, rfl, hb, hp, rfl⟩
  | succ k ih =>
    intro s hsched hb hp hr ho hv
    rcases hsched with ha | honly
    · rw [runFor_succ (step_rngWait ha hr hp), rngWaitStep_noResponse (by exact ho) (by exact hv)]
      exact ih _ (.inl rfl) hb hp hr ho hv
    · rw [runFor_succ ((step_engineOnly honly).trans (engineMove_rngWait hr hp 0)),
        rngWaitStep_noResponse (by exact ho) (by exact hv)]
      exact ih _ (.inr honly) hb hp hr ho hv

/-! #### A source that answers TRANSIENT for ever (R666, R667, R670) -/

/-- A round begins: a BYTE request is out, and the source will answer it and every later one with TRANSIENT. -/
structure RoundBegins (s : State) : Prop where
  phase : s.eng.phase = .rngWait
  command : runs .rng s = true
  missing : s.eng.off < s.len.toNat
  request : s.rng.req = some .byte
  noResponse : s.rng.resp = none
  delay : 0 < s.platform.retryDelay
  agenda : s.agenda = []
  later : s.later = .cycle (transientRound s.platform.retryDelay)

/-- The source has answered. -/
def roundAnswered (s : State) : State :=
  { holdResponse .transient s with agenda := .engine 0 :: List.replicate s.platform.retryDelay (.engine 0) }

/-- The answer is taken, and `k` engine steps of the busy-wait remain. -/
def roundDelayed (k : Nat) (s : State) : State :=
  { s with
    eng := { s.eng with phase := .rngDelay, retry := k }
    rng := { s.rng with req := none, resp := none }
    agenda := List.replicate k (.engine 0)
    grain := 0 }

/-- The round is over, and the next one begins. -/
def roundOver (s : State) : State := { s with eng := { s.eng with retry := 0 }, grain := 0 }

section
variable {s : State} (h : RoundBegins s)
include h

theorem RoundBegins.over : RoundBegins (roundOver s) :=
  ⟨h.phase, h.command, h.missing, h.request, h.noResponse, h.delay, h.agenda, h.later⟩

theorem RoundBegins.step_answered : step s = .next (roundAnswered s) :=
  (step_cycle h.agenda h.later).trans (congrArg _ (deliver_taken (by exact h.request) rfl))

theorem RoundBegins.step_delayed : step (roundAnswered s) = .next (roundDelayed s.platform.retryDelay s) := by
  rw [step_rngWait rfl (by exact h.command) (by exact h.phase), rngWaitStep_transient (by exact h.missing) rfl]
  rfl

theorem RoundBegins.step_countDown (k : Nat) : step (roundDelayed (k + 2) s) = .next (roundDelayed (k + 1) s) := by
  rw [step_rngDelay rfl (by exact h.command) rfl, rngDelayStep_more (by exact Nat.lt_add_left k Nat.one_lt_two)]
  rfl

theorem RoundBegins.step_over : step (roundDelayed 1 s) = .next (roundOver s) := by
  rw [step_rngDelay (rest := []) rfl (by exact h.command) rfl, rngDelayStep_last rfl]
  obtain ⟨hp, -, ho, hreq, hresp, -, ha, -⟩ := h
  simp only [enterWait, roundDelayed, roundOver, ho, if_true, ← ha, ← hp, ← hreq, ← hresp]

theorem RoundBegins.runFor_delayed : ∀ k, runFor (k + 1) (roundDelayed (k + 1) s) = .next (roundOver s)
  | 0 => runFor_succ h.step_over 0
  | k + 1 => (runFor_succ (h.step_countDown k) (k + 1)).trans (runFor_delayed k)

theorem RoundBegins.runFor_round : runFor (s.platform.retryDelay + 2) s = .next (roundOver s) := by
  rw [runFor_succ h.step_answered, runFor_succ h.step_delayed]
  obtain ⟨k, hk⟩ := Nat.exists_eq_add_of_lt h.delay
  rw [hk, Nat.zero_add]
  exact h.runFor_delayed k

end

theorem RoundBegins.runFor_rounds : ∀ (n : Nat) {s : State}, RoundBegins s →
    runFor ((n + 1) * (s.platform.retryDelay + 2)) s = .next (roundOver s)
  | 0, s, h => by
    rw [Nat.zero_add, Nat.one_mul]
    exact h.runFor_round
  | n + 1, s, h => by
    rw [Nat.succ_mul, Nat.add_comm, runFor_add _ h.runFor_round]
    exact runFor_rounds n h.over

/-- A state of some round that began with the flags, memory and eng.off of `s`. -/
def InRound (s t : State) : Prop :=
  ∃ b, RoundBegins b ∧ (b.status = s.status ∧ b.mem = s.mem ∧ b.eng.off = s.eng.off)
    ∧ (t = b ∨ t = roundAnswered b ∨ ∃ k, t = roundDelayed (k + 1) b)

theorem InRound.same {s t : State} (h : InRound s t) :
    t.status = s.status ∧ t.mem = s.mem ∧ t.eng.off = s.eng.off := by
  obtain ⟨b, -, hsame, rfl | rfl | ⟨k, rfl⟩⟩ := h <;> exact hsame

theorem InRound.step {s t : State} (h : InRound s t) : ∃ u, Machine.step t = .next u ∧ InRound s u := by
  obtain ⟨b, hb, hsame, rfl | rfl | ⟨_ | k, rfl⟩⟩ := h
  · exact ⟨_, hb.step_answered, t, hb, hsame, .inr (.inl rfl)⟩
  · obtain ⟨k, hk⟩ := Nat.exists_eq_add_of_lt hb.delay
    exact ⟨_, hb.step_delayed, b, hb, hsame, .inr (.inr ⟨k, by rw [hk, Nat.zero_add]⟩)⟩
  · exact ⟨_, hb.step_over, roundOver b, hb.over, hsame, .inl rfl⟩
  · exact ⟨_, hb.step_countDown k, b, hb, hsame, .inr (.inr ⟨k, rfl⟩)⟩

/-- Settles O59: every step stays in a round, and each round ends where it began. -/
theorem rngRetriesForEver : Obligations.RngRetriesForEver := by
  unfold Obligations.RngRetriesForEver
  intro s _ hp hr ho hreq hresp hd ha hl
  have h : RoundBegins s := ⟨hp, hr, ho, hreq, hresp, hd, ha, hl⟩
  refine ⟨fun n => ?_, fun n => h.runFor_rounds n⟩
  obtain ⟨t, hrun, ht⟩ := runFor_keeps (P := InRound s) (fun _ => InRound.step) n s
    ⟨s, h, ⟨rfl, rfl, rfl⟩, .inl rfl⟩
  exact ⟨t, hrun, ht.same⟩

/-! #### A source that answers each request with a byte (R665, R668, R672) -/

/-- The schedule in which the source gives the bytes `vs`, the engine taking each one. -/
def byteMoves (vs : List Byte) : List Move := vs.flatMap fun v => [.entropy (.data v), .engine 0]

/-- An rng command in RNG_WAIT over a bus that answers, which the source gives its missing bytes `vs`. -/
structure FedWith (vs : List Byte) (s : State) : Prop where
  missing : s.eng.off + vs.length = s.len.toNat
  bus : outputAnswers s s.len.toNat = true
  phase : s.eng.phase = .rngWait
  command : runs .rng s = true
  unspoiled : s.eng.spoiled = false
  request : s.rng.req = some .byte
  agenda : s.agenda = byteMoves vs

/-- The state in which the engine's step takes a byte the source gave. -/
def byteGiven (v : Byte) (vs : List Byte) (s : State) : State :=
  { holdResponse (.data v) s with agenda := byteMoves vs, grain := 0 }

theorem FedWith.canWrite {v : Byte} {vs : List Byte} {s : State} (h : FedWith (v :: vs) s) :
    canWrite s (addrAt s.dst s.eng.off) = true := by
  have hbus := h.bus
  have hmissing := h.missing
  rw [List.length_cons] at hmissing
  simp only [outputAnswers, List.all_eq_true, List.mem_range] at hbus
  exact hbus _ (by omega)

/-- The two moves of a byte: the response, and the engine's step that takes it. -/
theorem FedWith.runFor_byte {v : Byte} {vs : List Byte} {s : State} (h : FedWith (v :: vs) s) (k : Nat) :
    runFor (k + 2) s = runFor k (if s.eng.off + 1 = s.len.toNat then finishRng (storeRandom v (byteGiven v vs s))
      else enterWait (storeRandom v (byteGiven v vs s))) := by
  have hmissing := h.missing
  rw [List.length_cons] at hmissing
  have ho : (byteGiven v vs s).eng.off < (byteGiven v vs s).len.toNat := by
    show s.eng.off < s.len.toNat
    omega
  have htake : step { holdResponse (.data v) s with agenda := .engine 0 :: byteMoves vs }
      = .next (rngWaitStep (byteGiven v vs s)) := step_rngWait rfl h.command h.phase
  rw [runFor_succ (step_response h.agenda h.request rfl)]
  refine (runFor_succ htake k).trans ?_
  rw [rngWaitStep_data ho rfl h.canWrite]
  rfl

/-- The last byte completes the command. -/
theorem FedWith.runFor_last {v : Byte} {s : State} (h : FedWith [v] s) :
    runFor 2 s = .next (complete (storeRandom v (byteGiven v [] s))) := by
  have hlast : s.eng.off + 1 = s.len.toNat := h.missing
  rw [h.runFor_byte 0, if_pos hlast, finishRng_unspoiled (by exact h.unspoiled), runFor]

section
variable {v w : Byte} {vs : List Byte} {s : State} (h : FedWith (v :: w :: vs) s)
include h

theorem FedWith.moreMissing : s.eng.off + 1 < s.len.toNat := by
  have hmissing := h.missing
  simp only [List.length_cons] at hmissing
  omega

/-- Any other byte leaves the command waiting for the rest. -/
theorem FedWith.runFor_more (k : Nat) :
    runFor (k + 2) s = runFor k (enterWait (storeRandom v (byteGiven v (w :: vs) s))) := by
  rw [h.runFor_byte, if_neg (Nat.ne_of_lt h.moreMissing)]

theorem FedWith.next : FedWith (w :: vs) (enterWait (storeRandom v (byteGiven v (w :: vs) s))) where
  missing := by
    have hmissing := h.missing
    rw [List.length_cons] at hmissing
    exact (Nat.add_right_comm _ _ _).trans hmissing
  bus := h.bus
  phase := rfl
  command := h.command
  unspoiled := h.unspoiled
  request := if_pos h.moreMissing
  agenda := rfl

end

/-- Writing bytes from byte `off` of a range on: the first one, then the rest from the next byte on. -/
theorem writeBytes_at (m : Memory) (base : Word) (off : Nat) (b : Byte) (bs : List Byte) :
    writeBytes m (base + BitVec.ofNat 32 off) (b :: bs)
      = writeBytes (writeMem m (addrAt base off) b) (base + BitVec.ofNat 32 (off + 1)) bs := by
  rw [writeBytes, BitVec.ofNat_add, ← BitVec.add_assoc]
  rfl

/-- The completion over the bytes `vs` written from DST + eng.off on, their moves made. -/
def fedToEnd (vs : List Byte) (s : State) : State :=
  complete { s with
    mem := writeBytes s.mem (s.dst + BitVec.ofNat 32 s.eng.off) vs, agenda := [], grain := 0 }

theorem fedToEnd_cons (v : Byte) (vs : List Byte) (s : State) :
    fedToEnd vs (enterWait (storeRandom v (byteGiven v vs s))) = fedToEnd (v :: vs) s := by
  simp only [fedToEnd, writeBytes_at, enterWait_mem, enterWait_dst, enterWait_eng, storeRandom_mem, storeRandom_dst,
    storeRandom_eng, condition, byteGiven, holdResponse]
  rfl

/-- A fed rng command stores its bytes from DST + eng.off on, in order, and completes. -/
theorem FedWith.runFor_all {v : Byte} {vs : List Byte} {s : State} (h : FedWith (v :: vs) s) :
    runFor (2 * (vs.length + 1)) s = .next (fedToEnd (v :: vs) s) := by
  induction vs generalizing v s with
  | nil => exact h.runFor_last
  | cons w vs ih => rw [List.length_cons, Nat.mul_succ, h.runFor_more, ih h.next, fedToEnd_cons]

/-- Settles O35: the run ends in the completion over the bytes written at DST, by `FedWith.runFor_all`. -/
theorem rngWritesEntropyBytesInOrder : Obligations.RngWritesEntropyBytesInOrder := by
  unfold Obligations.RngWritesEntropyBytesInOrder
  intro s vs hne hlen hm hfit hbus _ herr hp hr hoff hs hreq _ ha
  obtain ⟨v, vs, rfl⟩ := List.exists_cons_of_ne_nil hne
  have hfed : FedWith (v :: vs) s := ⟨by rw [hoff, Nat.zero_add, hlen], hbus, hp, hr, hs, hreq, ha⟩
  have hbase : s.dst + BitVec.ofNat 32 s.eng.off = s.dst := by
    rw [hoff]
    exact BitVec.add_zero _
  refine ⟨_, hfed.runFor_all, rfl, rfl, herr, rfl, ?_, fun a hout => ?_⟩ <;> rw [fedToEnd, complete_mem, hbase]
  · exact readBytes_writeBytes hm (by rwa [hlen])
  · exact readMem_writeBytes_outside hlen.le hfit (by omega)

end Sys2Proof.Machine

/-! ### Proofs: acceptance, its checks in order, and what it leaves alone (60_exceptions.md R705, R706) -/

namespace Sys2Proof.Machine

/-! #### What a recipe asks is what the tables of R310 and R201 ask -/

theorem recipeOf_keyLen (i : Instr) : (recipeOf i).keyLen = requiredKey i := by cases i <;> rfl

theorem recipeOf_nonceLen (i : Instr) : (recipeOf i).nonceLen = requiredNonce i := by cases i <;> rfl

theorem recipeOf_inPlace (i : Instr) : (recipeOf i).inPlace = decide (i ≠ .sha512) := by cases i <;> rfl

theorem klen_eq (s : State) : klen s = s.cfg.toNat % 64 := by simp [klen]

theorem nlen_eq (s : State) : nlen s = s.cfg.toNat / 256 % 32 := by simp [nlen, Nat.shiftRight_eq_div_pow]

/-- A block cipher command asks for one block, the others for whole words or blocks, or for nothing. -/
theorem recipeOf_lenOk (i : Instr) (n : Nat) :
    (recipeOf i).lenOk n = ((requiredLength i).all (n == ·) && n % requiredMultiple i == 0) := by
  cases i <;> simp [recipeOf, requiredLength, requiredMultiple, ctrRecipe, encRecipe, rabbitRecipe, triviumRecipe,
    chachaRecipe, shaRecipe, rngRecipe, codecRecipe, blockBytes, modeBytes, Nat.mod_one]

/-- The ranges of a command with a legal LEN are those of R201: a recipe gives bc.enc's in blocks. -/
theorem recipeOf_ranges {i : Instr} {s : State} (h : (recipeOf i).lenOk s.len.toNat = true) :
    (recipeOf i).inLen s.len.toNat = inputLength i s ∧ (recipeOf i).outLen s.len.toNat = outputLength i s := by
  induction i using instr_byFamily with
  | ctr v => cases v <;> exact ⟨rfl, rfl⟩
  | enc v =>
    have hlen : s.len.toNat = blockBytes v := by simpa [encRecipe] using h
    rw [recipeOf_encOf]
    cases v <;> exact ⟨hlen.symm, hlen.symm⟩
  | codec d m => cases d <;> cases m <;> exact ⟨rfl, rfl⟩
  | rabbit | trivium | chacha20 | sha512 | rng => exact ⟨rfl, rfl⟩

/-! #### Each check (R706) -/

theorem lengthDiffers_iff (required : Option Nat) (declared : Nat) :
    lengthDiffers required declared = true ↔ required.isSome = true ∧ required ≠ some declared := by
  cases required with
  | none => simp [lengthDiffers]
  | some k => simp [lengthDiffers, eq_comm (a := declared)]

theorem rangeLegal_eq_false_iff (base : Word) (k : Nat) :
    rangeLegal base k = false ↔ 0 < k ∧ 2 ^ 32 < base.toNat + k := by
  simp [rangeLegal, Nat.pos_iff_ne_zero]

/-- Two ranges meet where they have an address in common: the higher of their first ones. -/
theorem rangesMeet_iff (a k b l : Nat) :
    rangesMeet a k b l = true ↔ ∃ x, (a ≤ x ∧ x < a + k) ∧ (b ≤ x ∧ x < b + l) := by
  simp only [rangesMeet, Bool.and_eq_true, decide_eq_true_eq]
  refine ⟨fun h => ⟨max a b, by omega⟩, ?_⟩
  rintro ⟨x, hx⟩
  omega

section
variable (i : Instr) (s : State)

theorem keyLenFails_iff : lengthDiffers (recipeOf i).keyLen (klen s) = true ↔ KeyLenFails i s := by
  rw [lengthDiffers_iff, recipeOf_keyLen, klen_eq]

theorem nonceLenFails_iff : lengthDiffers (recipeOf i).nonceLen (nlen s) = true ↔ NonceLenFails i s := by
  rw [lengthDiffers_iff, recipeOf_nonceLen, nlen_eq]

theorem lengthFails_iff : (recipeOf i).lenOk s.len.toNat = false ↔ LengthFails i s := by
  rw [recipeOf_lenOk, LengthFails, Bool.and_eq_false_iff]
  cases requiredLength i <;> simp [eq_comm (a := s.len.toNat)]

theorem entropyFails_iff : ((recipeOf i).needsEntropy && s.rng.init == .fatal) = true ↔ EntropyFails i s := by
  rw [needsEntropy_iff, Bool.and_eq_true, decide_eq_true_eq, beq_iff_eq]

end

section
variable {i : Instr} {s : State} (hlen : ¬ LengthFails i s)
include hlen

theorem ranges_of_legalLength :
    (recipeOf i).inLen s.len.toNat = inputLength i s ∧ (recipeOf i).outLen s.len.toNat = outputLength i s :=
  recipeOf_ranges (Bool.eq_true_of_not_eq_false (mt (lengthFails_iff i s).mp hlen))

theorem addrRangeFails_iff :
    (rangeLegal s.src ((recipeOf i).inLen s.len.toNat) = false
      || rangeLegal s.dst ((recipeOf i).outLen s.len.toNat) = false) = true ↔ AddrRangeFails i s := by
  obtain ⟨hin, hout⟩ := ranges_of_legalLength hlen
  rw [Bool.or_eq_true, decide_eq_true_eq, decide_eq_true_eq, rangeLegal_eq_false_iff, rangeLegal_eq_false_iff, hin,
    hout]

theorem overlapFails_iff :
    (rangesMeet s.src.toNat ((recipeOf i).inLen s.len.toNat) s.dst.toNat ((recipeOf i).outLen s.len.toNat)
      && !((recipeOf i).inPlace && s.src == s.dst)) = true ↔ OverlapFails i s := by
  obtain ⟨hin, hout⟩ := ranges_of_legalLength hlen
  rw [Bool.and_eq_true, rangesMeet_iff, hin, hout, recipeOf_inPlace, OverlapFails, RangesIntersect]
  simp [Classical.or_iff_not_imp_left]

end

open Classical in
/-- The checks of acceptance, one after the other (R706). -/
theorem checkCommand_eq (i : Instr) (s : State) :
    checkCommand (recipeOf i) s =
      if KeyLenFails i s then some .keyLen
      else if NonceLenFails i s then some .nonceLen
      else if LengthFails i s then some .length
      else if AddrRangeFails i s then some .addrRange
      else if OverlapFails i s then some .overlap
      else if EntropyFails i s then some .entropyAbsent
      else none := by
  simp only [checkCommand, keyLenFails_iff, nonceLenFails_iff, lengthFails_iff, entropyFails_iff]
  by_cases hlen : LengthFails i s
  · simp only [hlen, if_true]
  · simp only [addrRangeFails_iff hlen, overlapFails_iff hlen]

/-! #### The outcome of acceptance (R705, R710) -/

/-- A failing check ends the command at once, wherever its ranges lie (logs 13, 14). -/
theorem exec_rejected {i : Instr} {s : State} {e : ErrCode} (hp : s.eng.phase = .idle)
    (hc : checkCommand (recipeOf i) s = some e) :
    exec i s = .next (raiseError e (openCommand (encode i) s)) := by
  rw [exec_idle i hp]
  simp only [accept, checkCommand_openCommand, hc]

/-- Settles O17: the checks in their order by `checkCommand_eq`, and the error completion by `exec_rejected`. -/
theorem acceptanceChecksInOrder : Obligations.AcceptanceChecksInOrder := by
  unfold Obligations.AcceptanceChecksInOrder
  intro i s hp
  have hfails : ∀ e, checkCommand (recipeOf i) s = some e →
      exec i s = .next (raiseError e (openCommand (encode i) s)) := fun e => exec_rejected hp
  rw [checkCommand_eq] at hfails ⊢
  refine ⟨fun h => hfails _ ?_, fun hk h => hfails _ ?_, fun hk hn h => hfails _ ?_, fun hk hn hl h => hfails _ ?_,
    fun hk hn hl ha h => hfails _ ?_, fun hk hn hl ha ho h => hfails _ ?_, fun hk hn hl ha ho h => ?_⟩
  · rw [if_pos h]
  · rw [if_neg hk, if_pos h]
  · rw [if_neg hk, if_neg hn, if_pos h]
  · rw [if_neg hk, if_neg hn, if_neg hl, if_pos h]
  · rw [if_neg hk, if_neg hn, if_neg hl, if_neg ha, if_pos h]
  · rw [if_neg hk, if_neg hn, if_neg hl, if_neg ha, if_neg ho, if_pos h]
  · rw [if_neg hk, if_neg hn, if_neg hl, if_neg ha, if_neg ho, if_neg h]

/-- Settles O18: `exec_rejected`, field by field. -/
theorem acceptanceErrorEffects : Obligations.AcceptanceErrorEffects := by
  unfold Obligations.AcceptanceErrorEffects
  intro i s e hp hc
  rw [exec_rejected hp hc]
  rfl

/-- Settles O19: acceptance after the checks, by `accept_checked`. -/
theorem acceptedCommandStarts : Obligations.AcceptedCommandStarts := by
  unfold Obligations.AcceptedCommandStarts
  intro i s hi hp hc hblock hdevice
  rw [exec_idle i hp, if_neg hi, accept_checked i _ hc, if_neg (Bool.eq_false_iff.mp hblock),
    if_neg (Bool.eq_false_iff.mp hdevice)]
  rfl

/-- The start of rng sets its phase and its request, nothing else (47_rng.md R663). -/
theorem enterRng_frame (s : State) :
    (enterRng s).rng.init = s.rng.init
      ∧ enterRng s = { s with eng := (enterRng s).eng, rng := (enterRng s).rng } := by
  unfold enterRng
  split <;> exact ⟨rfl, rfl⟩

/-- What acceptance can answer with: an error completion, or the command begun. -/
theorem exec_idle_next {i : Instr} {s t : State} (hp : s.eng.phase = .idle) (h : exec i s = .next t) :
    (∃ e, t = raiseError e (openCommand (encode i) s))
      ∨ ∃ eng rng, rng.init = s.rng.init
        ∧ t = { latch i (openCommand (encode i) s) with eng := eng, rng := rng } := by
  rw [exec_idle i hp] at h
  rcases accept_cases i (recipeOf i) (if i = .rng then enterRng else enterRun) s with
    ⟨e, -, ha⟩ | ⟨-, ha⟩ | ⟨-, ha⟩ | ⟨-, ha⟩ <;> rw [ha] at h <;> cases h
  · exact .inl ⟨e, rfl⟩
  · right
    by_cases hi : i = .rng
    · rw [if_pos hi]
      exact ⟨_, _, enterRng_frame (latch i (openCommand (encode i) s))⟩
    · rw [if_neg hi]
      exact ⟨_, _, rfl, rfl⟩

/-- Settles O40: an error completion and a start alike leave everything named alone, by `exec_idle_next`. -/
theorem acceptanceFrame : Obligations.AcceptanceFrame := by
  unfold Obligations.AcceptanceFrame
  intro i s t hp h
  rcases exec_idle_next hp h with ⟨e, rfl⟩ | ⟨eng, rng, hinit, rfl⟩
  · exact ⟨rfl, rfl, rfl, rfl, rfl, rfl, rfl, rfl, rfl, rfl, rfl, rfl, rfl, rfl, rfl, rfl, rfl, .inr ⟨rfl, rfl⟩⟩
  · exact ⟨rfl, rfl, rfl, rfl, rfl, rfl, rfl, rfl, rfl, hinit, rfl, rfl, rfl, rfl, rfl, rfl, rfl, .inl ⟨rfl, rfl⟩⟩

end Sys2Proof.Machine

/-! ### Proofs: a machine that meets the invariant does not fault (60_exceptions.md R700, R713) -/

namespace Sys2Proof.Machine

/-- The refusals the spec asks for (10_state.md R103; 20_memory.md R203, R208, R227). -/
def SpecRefuses (r : Refusal) : Prop :=
  r = .registerAccess ∨ r = .registerBlockInDma ∨ r = .sideEffectMemory ∨ r = .incoherentHost

/-- An outcome that is no fault, and no refusal but one the spec asks for. -/
def StopsOnlyAsSpec : Outcome → Prop
  | .next _ => True
  | .fault _ => False
  | .refused r => SpecRefuses r

theorem StopsOnlyAsSpec.spec {o : Outcome} (h : StopsOnlyAsSpec o) :
    (∀ r, o ≠ .fault r) ∧ ∀ r, o = .refused r → SpecRefuses r := by
  cases o with
  | next t => exact ⟨nofun, nofun⟩
  | fault r => exact h.elim
  | refused r => exact ⟨nofun, fun _ hr => by cases hr; exact h⟩

/-! #### Each agent's move -/

theorem stopsOnlyAsSpec_hostRegRead (addr size : Nat) (s : State) : StopsOnlyAsSpec (hostRegRead addr size s) := by
  unfold hostRegRead
  split
  · split
    · split <;> trivial
    · exact .inl rfl
  · trivial

theorem stopsOnlyAsSpec_hostMemRead (a : Word) (maintained : Bool) (s : State) :
    StopsOnlyAsSpec (hostMemRead a maintained s) := by
  unfold hostMemRead
  split
  · split
    · split <;> trivial
    · trivial
  · exact .inr (.inr (.inr rfl))

theorem stopsOnlyAsSpec_hostMemWrite (a : Word) (b : Byte) (maintained : Bool) (s : State) :
    StopsOnlyAsSpec (hostMemWrite a b maintained s) := by
  unfold hostMemWrite
  split
  · trivial
  · exact .inr (.inr (.inr rfl))

/-- A write of a register but CMD has a meaning, or is no register access (R103). -/
theorem stopsOnlyAsSpec_hostRegWrite (addr size : Nat) {v : Word} {s : State} (hcmd : StopsOnlyAsSpec (writeCmd v s)) :
    StopsOnlyAsSpec (hostRegWrite addr size v s) := by
  unfold hostRegWrite
  split
  · split
    · split
      · exact hcmd
      · trivial
      · trivial
    · exact .inl rfl
  · trivial

/-- With the engine idle a command is accepted, ends in an error, or is refused (20_memory.md R203, R208). -/
theorem stopsOnlyAsSpec_exec_idle (i : Instr) {s : State} (hp : s.eng.phase = .idle) : StopsOnlyAsSpec (exec i s) := by
  rw [exec_idle i hp]
  rcases accept_cases i (recipeOf i) (if i = .rng then enterRng else enterRun) s with
    ⟨e, -, ha⟩ | ⟨-, ha⟩ | ⟨-, ha⟩ | ⟨-, ha⟩ <;> rw [ha]
  · trivial
  · exact .inr (.inl rfl)
  · exact .inr (.inr (.inl rfl))
  · trivial

/-- A running command, in a phase of its own, has a next step. -/
theorem exec_running_next {i : Instr} {s : State} (hp : s.eng.phase ≠ .idle) (hr : runs i s = true)
    (hrun : s.eng.phase = .run ↔ i ≠ .rng) : ∃ t, exec i s = .next t := by
  by_cases hi : i = .rng
  · subst hi
    cases hq : s.eng.phase with
    | idle => exact absurd hq hp
    | run => exact absurd rfl (hrun.mp hq)
    | rngInit => exact ⟨_, exec_rngInit hr hq⟩
    | rngWait => exact ⟨_, exec_rngWait hr hq⟩
    | rngDelay => exact ⟨_, exec_rngDelay hr hq⟩
  · exact ⟨_, (exec_eq_perform hi s).trans (perform_run (hrun.mpr hi) hr)⟩

section
variable {s : State} (h : Invariant s)
include h

theorem Invariant.stopsOnlyAsSpec_writeCmd (v : Word) : StopsOnlyAsSpec (Machine.writeCmd v s) := by
  unfold Machine.writeCmd
  split
  · trivial
  · rename_i hb
    have hp : s.eng.phase = .idle := by
      by_contra hn
      exact hb (h.busy.mpr hn)
    split
    · exact stopsOnlyAsSpec_exec_idle _ hp
    · trivial

theorem Invariant.stopsOnlyAsSpec_engineMove (g : Nat) : StopsOnlyAsSpec (Machine.engineMove g s) := by
  by_cases hp : s.eng.phase = .idle
  · simp only [Machine.engineMove, hp]
    trivial
  · obtain ⟨i, hr, hrun, -⟩ := h.command hp
    obtain ⟨t, ht⟩ := exec_running_next (s := { s with grain := g }) hp hr hrun
    rw [engineMove_of_runs hp hr, ht]
    trivial

theorem Invariant.stopsOnlyAsSpec_act (m : Move) : StopsOnlyAsSpec (Machine.act m s) := by
  cases m with
  | regRead addr size => exact stopsOnlyAsSpec_hostRegRead addr size s
  | regWrite addr size v => exact stopsOnlyAsSpec_hostRegWrite addr size (h.stopsOnlyAsSpec_writeCmd v)
  | memRead a maintained => exact stopsOnlyAsSpec_hostMemRead a maintained s
  | memWrite a b maintained => exact stopsOnlyAsSpec_hostMemWrite a b maintained s
  | engine g => exact h.stopsOnlyAsSpec_engineMove g
  | entropy | lateEntropy | reset => trivial

end

/-- Settles O58: taking a move touches only the schedule, and no move of an agent stops but as the spec has it. -/
theorem noStepFaults : Obligations.NoStepFaults := by
  unfold Obligations.NoStepFaults
  intro s h
  have htaken : Invariant (takeMove s) := h.records _ _ s.grain s.rdata s.mdata s.draws
  exact (htaken.stopsOnlyAsSpec_act (nextMove s)).spec

end Sys2Proof.Machine

/-! ### Proofs: the interrupt, reset, and the bytes an abandoned command leaves (60_exceptions.md R710, R720;
70_reset_and_hazards.md R800, R801) -/

namespace Sys2Proof.Machine

/-- Settles O16: the bits of the STATUS word by `statusWordLayout`; reset leaves every flag 0. -/
theorem interruptIsEnabledStatus : Obligations.InterruptIsEnabledStatus := by
  unfold Obligations.InterruptIsEnabledStatus
  refine ⟨fun s => ?_, fun s t h => ?_⟩
  · obtain ⟨-, hdone, herr, hovr, -⟩ := statusWordLayout s
    rw [hdone, herr, hovr, irq]
  · obtain ⟨u, hu⟩ := hostReset_eq_resetCore s
    cases h
    rw [hu]
    rfl

/-- Where the host wrote nothing into its ranges, a command that ends without completing leaves each byte of its output
range old or computed (R710, R801). -/
theorem readMem_settledMem {i : Instr} {s : State} {j : Nat} (hs : s.eng.spoiled = false) (hm : s.mem.wf = true)
    (hfit : s.dst.toNat + (recipeOf i).outLen s.len.toNat ≤ 2 ^ 32) (hj : j < (recipeOf i).outLen s.len.toNat) :
    OldOrComputed i s (readMem (settledMem (recipeOf i) s) (addrAt s.dst j)) j := by
  cases hp : s.eng.phase with
  | run =>
    have hmem : settledMem (recipeOf i) s = writeBytes s.mem s.dst ((List.range ((recipeOf i).outLen s.len.toNat)).map
        fun j => oldOrComputed (recipeOf i) s j (s.draws + j)) := by
      simp [settledMem, hs, hp]
    rw [hmem, readMem_writeBytes_same _ (by simpa using hj) hm (by simpa using hfit), List.getElem_map,
      List.getElem_range]
    exact oldOrComputed_spec i s j _
  | idle | rngInit | rngWait | rngDelay =>
    left
    simp [settledMem, hs, hp]

/-- A reset abandons the running command: what it leaves in memory is its end without completion (R801). -/
theorem hostReset_running {i : Instr} {s : State} (hi : runningCommand s = some i) :
    hostReset s = resetCore (settle (recipeOf i) s) := by
  simp only [hostReset, hi]

theorem hostReset_idle {s : State} (hp : s.eng.phase = .idle) : hostReset s = resetCore s := by
  simp only [hostReset, runningCommand_idle hp]

theorem statusWord_resetCore (s : State) : statusWord (resetCore s) = 0 :=
  show statusWord State.reset = 0 by decide

/-- The reset move leaves the platform alone. -/
theorem hostReset_platform (s : State) : (hostReset s).platform = s.platform := by
  rcases hostReset_cases s with ⟨-, e⟩ | ⟨i, -, e⟩ <;> rw [e] <;> rfl

/-- Settles O50: the registers are those of `resetCore`, and memory is as the abandoned command leaves it. -/
theorem resetFromAnyState : Obligations.ResetFromAnyState := by
  unfold Obligations.ResetFromAnyState
  intro s
  refine ⟨hostReset s, rfl, ?_⟩
  have hidle : s.eng.phase = .idle → (hostReset s).mem = s.mem := fun hp => by rw [hostReset_idle hp, resetCore_mem]
  have hrunning : ∀ i, runningCommand s = some i → (hostReset s).mem = settledMem (recipeOf i) s := fun i hi => by
    rw [hostReset_running hi, resetCore_mem]
    rfl
  have hplatform := hostReset_platform s
  obtain ⟨u, hu⟩ := hostReset_eq_resetCore s
  rw [hu] at hidle hrunning hplatform ⊢
  refine ⟨rfl, statusWord_resetCore u, rfl, rfl, rfl, rfl, rfl, rfl, show ∀ k : Fin 8, zeroKey[k] = 0 by decide,
    show ∀ k : Fin 4, (Vector.replicate 4 (0 : Word))[k] = 0 by decide, rfl, rfl, rfl, rfl, rfl, hplatform, hidle,
    fun i hi hfit a ha => ?_, fun i _ hi hs hm hfit j hj => ?_, fun hp hr hs => ?_⟩
  · rw [hrunning i hi]
    exact readMem_settledMem_outside hfit ha
  · rw [hrunning i hi]
    exact readMem_settledMem hs hm hfit hj
  · have hne : s.eng.phase ≠ .idle := by rcases hp with hp | hp | hp <;> rw [hp] <;> decide
    rw [hrunning .rng (runningCommand_of_runs hne hr), settledMem_rng hs hp]

end Sys2Proof.Machine

/-! ### Proofs: a command over any bus: it completes, or ends with BUS (20_memory.md R207; 60_exceptions.md R710;
70_reset_and_hazards.md R831) -/

namespace Sys2Proof.Machine

/-! #### The units read the whole input range -/

/-- eng.blk counts the units of a command. -/
theorem unit_blk {i : Instr} (hi : i ≠ .rng) (o : Operands) (e : Eng) (p : List Byte) :
    ((recipeOf i).unit o e p).blk = e.blk + 1 := by
  induction i using instr_byFamily with
  | ctr v => rw [recipeOf_ctrOf]; rfl
  | enc v => rw [recipeOf_encOf]; rfl
  | codec d m => rw [recipeOf_codecOf]; rfl
  | rabbit | trivium | chacha20 => rfl
  | sha512 =>
    simp only [recipeOf, shaRecipe, shaUnit]
    split
    · rfl
    · split
      · rfl
      · split <;> rfl
  | rng => exact absurd rfl hi

theorem engineAfter_blk {i : Instr} (hi : i ≠ .rng) (s : State) : ∀ k, (engineAfter i s k).blk = k
  | 0 => (engineAfter_zero i s).2
  | k + 1 => by rw [engineAfter_succ, unit_blk hi, engineAfter_blk hi s k]

/-- Input byte `j` is among the bytes unit `k` reads. -/
def UnitReads (i : Instr) (n k j : Nat) : Prop := ((recipeOf i).chunk n k).1 ≤ j ∧ j < ((recipeOf i).chunk n k).2

/-- Blocks that cover `n` bytes hold each of them. -/
theorem blockChunk_covers {b n q j : Nat} (hb : 0 < b) (hq : n ≤ b * q) (hj : j < n) :
    j / b < q ∧ (blockChunk b n (j / b)).1 ≤ j ∧ j < (blockChunk b n (j / b)).2 := by
  have hdiv := Nat.div_add_mod j b
  have hmod := Nat.mod_lt j hb
  refine ⟨Nat.div_lt_of_lt_mul (hj.trans_le hq), Nat.mul_div_le j b, ?_⟩
  simp only [blockChunk]
  omega

/-- Every input byte of a command with a legal LEN is read by one of its units (20_memory.md R201). -/
theorem exists_unitReads {i : Instr} {n j : Nat} (hn : (recipeOf i).lenOk n = true) (hj : j < (recipeOf i).inLen n) :
    ∃ k, k < (recipeOf i).units n ∧ UnitReads i n k j := by
  unfold UnitReads
  induction i using instr_byFamily with
  | ctr v =>
    rw [recipeOf_ctrOf] at hj ⊢
    exact ⟨_, blockChunk_covers (blockBytes_pos v) (ceilDiv_covers (blockBytes_pos v) n).1 hj⟩
  | enc v =>
    rw [recipeOf_encOf] at hj ⊢
    exact ⟨0, Nat.one_pos, Nat.zero_le j, hj⟩
  | codec d m =>
    rw [recipeOf_codecOf] at hn hj ⊢
    have hmod : n % modeBytes m = 0 := by simpa [codecRecipe] using hn
    exact ⟨_, blockChunk_covers (modeBytes_pos m) (div_covers (modeBytes_pos m) hmod).1 hj⟩
  | rabbit =>
    have hmod : n % 16 = 0 := by simpa [recipeOf, rabbitRecipe] using hn
    exact ⟨_, blockChunk_covers (b := 16) (by decide) (div_covers (by decide) hmod).1 hj⟩
  | chacha20 => exact ⟨_, blockChunk_covers (b := 64) (by decide) (ceilDiv_covers (by decide) n).1 hj⟩
  | sha512 =>
    have hj : j < n := hj
    simp only [recipeOf, shaRecipe]
    exact ⟨j / 128, by omega⟩
  | trivium | rng => exact absurd hj (Nat.not_lt_zero j)

/-- The input bytes unit `k` reads answer (20_memory.md R207). -/
abbrev UnitAnswers (i : Instr) (s : State) (k : Nat) : Prop :=
  inputAnswers s ((recipeOf i).chunk s.len.toNat k).1 ((recipeOf i).chunk s.len.toNat k).2 = true

theorem inputAnswers_iff (s : State) (lo hi : Nat) :
    inputAnswers s lo hi = true ↔ ∀ j, lo ≤ j → j < hi → canRead s (addrAt s.src j) = true := by
  simp only [inputAnswers, List.all_eq_true, List.mem_range]
  refine ⟨fun h j hlo hhi => ?_, fun h j hj => h _ (by omega) (by omega)⟩
  simpa [Nat.add_sub_cancel' hlo] using h (j - lo) (by omega)

/-- Where every unit's bytes answer, the whole input range does. -/
theorem inputAnswers_of_units {i : Instr} {s : State} (hn : (recipeOf i).lenOk s.len.toNat = true)
    (h : ∀ k, k < (recipeOf i).units s.len.toNat → UnitAnswers i s k) :
    inputAnswers s 0 ((recipeOf i).inLen s.len.toNat) = true := by
  rw [inputAnswers_iff]
  intro j _ hj
  obtain ⟨k, hk, hlo, hhi⟩ := exists_unitReads hn hj
  exact (inputAnswers_iff _ _ _).mp (h k hk) j hlo hhi

/-! #### The unit that meets a byte that does not answer -/

theorem runStep_inputFails {c : Recipe} {s : State} (hready : s.eng.ready = true)
    (hoff : s.eng.off < c.outLen s.len.toNat)
    (hbus : ¬ inputAnswers s (c.chunk s.len.toNat s.eng.blk).1 (c.chunk s.len.toNat s.eng.blk).2 = true) :
    runStep c s = failRunning c .bus s := by
  simp only [runStep, hready, Bool.true_eq_false, hoff, hbus, Bool.false_eq_true, if_true, if_false]

theorem runStep_outputFails {c : Recipe} {s : State} (hready : s.eng.ready = true)
    (hoff : c.outLen s.len.toNat ≤ s.eng.off)
    (hbus : ¬ outputAnswers s (c.outLen s.len.toNat) = true) : runStep c s = failRunning c .bus s := by
  simp only [runStep, hready, Bool.true_eq_false, Nat.not_lt.mpr hoff, hbus, Bool.false_eq_true, if_false]

/-- The state of command `i`, accepted in `s`, after its initialisation and `k` units. -/
def afterUnits (i : Instr) (s : State) (k : Nat) : State := { s with eng := started i (engineAfter i s k) }

section
variable {i : Instr} {s : State} (hi : i ≠ .rng) (hc : checkCommand (recipeOf i) s = none)
include hi hc

/-- Over a bus that does not answer everywhere the units come to the first one whose bytes do not answer, or to the DMA
writes that do not. -/
theorem exists_failingUnit (hbus : ¬ BusAnswers i s) :
    ∃ k, k ≤ (recipeOf i).units s.len.toNat ∧ (∀ j, j < k → UnitAnswers i s j)
      ∧ runStep (recipeOf i) (afterUnits i s k) = failRunning (recipeOf i) .bus (afterUnits i s k) := by
  obtain ⟨hmissing, hall⟩ := reachesEnd hi hc
  by_cases hunits : ∀ k, k < (recipeOf i).units s.len.toNat → UnitAnswers i s k
  · have hout : ¬ outputAnswers s ((recipeOf i).outLen s.len.toNat) = true := fun hout =>
      hbus ⟨inputAnswers_of_units (checkCommand_none hc).1 hunits, hout⟩
    exact ⟨_, le_rfl, hunits, runStep_outputFails rfl hall.ge hout⟩
  · have hex : ∃ k, k < (recipeOf i).units s.len.toNat ∧ ¬ UnitAnswers i s k := by simpa using hunits
    obtain ⟨hk, hfails⟩ := Nat.find_spec hex
    refine ⟨Nat.find hex, hk.le, fun j hj => ?_, runStep_inputFails rfl (hmissing _ hk) ?_⟩
    · by_contra hn
      exact Nat.find_min hex hj ⟨hj.trans hk, hn⟩
    · rwa [show (afterUnits i s (Nat.find hex)).eng.blk = Nat.find hex from engineAfter_blk hi s _]

/-- An accepted command, given as many units as it has and two more, has completed, or has ended with BUS. -/
theorem runSteps_accepted (hs : s.eng = freshEngine i) {g : Nat} (hg : engineSteps i s ≤ g) :
    (BusAnswers i s ∧ runSteps (recipeOf i) g s = completedWith (computedOutput (recipeOf i) s) s)
      ∨ ∃ k, runSteps (recipeOf i) g s = failRunning (recipeOf i) .bus (afterUnits i s k) := by
  obtain ⟨hmissing, hall⟩ := reachesEnd hi hc
  by_cases hbus : BusAnswers i s
  · exact .inl ⟨hbus, runSteps_complete hs
      (fun j hj => ⟨hmissing j hj, inputAnswers_sub hbus.1 (chunk_within i _ _)⟩) hall hbus.2 hg⟩
  · obtain ⟨k, hk, hbefore, hfails⟩ := exists_failingUnit hi hc hbus
    obtain ⟨x, rfl⟩ := Nat.exists_eq_add_of_le (show k + 1 + 1 ≤ g by rw [engineSteps] at hg; omega)
    have hunits : runSteps (recipeOf i) (k + 1) s = afterUnits i s k := runSteps_units hs k fun j hj =>
      ⟨hmissing j (hj.trans_le hk), by rw [engineAfter_blk hi]; exact hbefore j hj⟩
    refine .inr ⟨k, ?_⟩
    rw [Nat.add_assoc, runSteps_split, hunits, Nat.add_comm 1 x, runSteps_succ rfl, hfails, runSteps_stopped]
    exact (by decide : Phase.idle ≠ Phase.run)

end

/-- An accepted command is the one the engine runs. -/
theorem running_freshEngine {i : Instr} {s : State} (heng : s.eng = freshEngine i) :
    s.eng.phase = .run ∧ runs i s = true := by
  rw [runs, heng]
  exact ⟨rfl, by simp [freshEngine]⟩

/-- Settles O38: the command ends with BUS by `runSteps_accepted`, and leaves its output range as `settledMem`. -/
theorem busErrorLeavesOldOrComputed : Obligations.BusErrorLeavesOldOrComputed := by
  unfold Obligations.BusErrorLeavesOldOrComputed
  intro i s hi ⟨_, heng, hc⟩ hbus hroom hm
  obtain ⟨hp, hr⟩ := running_freshEngine heng
  obtain ⟨-, hfit⟩ := checkCommand_none hc
  rcases runSteps_accepted hi hc heng hroom with ⟨hanswers, -⟩ | ⟨k, hrun⟩
  · exact absurd hanswers hbus
  refine ⟨failRunning (recipeOf i) .bus (afterUnits i s k), ?_, rfl, rfl, rfl, rfl, fun j hj => ?_, fun a ha => ?_⟩
  · rw [exec_eq_perform hi, perform_run hp hr, hrun]
  · have hbyte := readMem_settledMem (s := afterUnits i s k) (engineAfter_spoiled i s k) hm hfit hj
    rwa [OldOrComputed, afterUnits, computedOutput_eng] at hbyte
  · exact readMem_settledMem_outside (s := afterUnits i s k) hfit ha

/-! #### Runs in which only the engine moves (R831) -/

/-- A step in which only the engine moves is one unit of the running command. -/
theorem step_engineOnly_running {i : Instr} {s : State} (h : engineOnly s) (hi : i ≠ .rng) (hp : s.eng.phase = .run)
    (hr : runs i s = true) : step s = .next { runStep (recipeOf i) s with grain := 0 } := by
  have hp' : ({ s with grain := 0 } : State).eng.phase = .run := hp
  rw [step_engineOnly h, engineMove_of_runs (by rw [hp]; decide) hr, exec_eq_perform hi, perform_run hp' hr,
    runSteps_succ hp', runStep_grain]
  rfl

theorem step_engineOnly_idle {s : State} (h : engineOnly s) (hp : s.eng.phase = .idle) : step s = .next s := by
  rw [step_engineOnly h]
  simp only [engineMove, hp]

/-- Where only the engine moves, `k` steps are `k` units of the running command, or as many as it takes to its end. -/
theorem runFor_engineOnly {i : Instr} (hi : i ≠ .rng) : ∀ (k : Nat) {s : State}, engineOnly s →
    (s.eng.phase = .run ∧ runs i s = true ∨ s.eng.phase = .idle) →
    ∃ g, runFor k s = .next { runSteps (recipeOf i) k s with grain := g }
  | 0, s, _, _ => ⟨s.grain, rfl⟩
  | k + 1, s, h, .inl ⟨hp, hr⟩ => by
    obtain ⟨hsame, hout⟩ := runStep_effect i s
    have honly : engineOnly { runStep (recipeOf i) s with grain := 0 } :=
      ⟨hsame.agenda.trans h.1, hsame.later.trans h.2⟩
    have hlive : (runStep (recipeOf i) s).eng.phase = .run ∧ runs i (runStep (recipeOf i) s) = true
        ∨ (runStep (recipeOf i) s).eng.phase = .idle := by
      rcases hout with hgo | hend
      · exact .inl ⟨hgo.phase.trans hp, by rw [runs, hgo.op, hgo.var]; exact hr⟩
      · exact .inr (by rw [hend.eng]; rfl)
    obtain ⟨g, hg⟩ := runFor_engineOnly hi k honly hlive
    exact ⟨g, by rw [runFor_succ (step_engineOnly_running h hi hp hr), hg, runSteps_grain, runSteps_succ hp]⟩
  | k + 1, s, h, .inr hp => by
    have hstopped := runSteps_stopped (c := recipeOf i) (s := s) (by rw [hp]; decide)
    obtain ⟨g, hg⟩ := runFor_engineOnly hi k h (.inr hp)
    exact ⟨g, by rw [runFor_succ (step_engineOnly_idle h hp), hg, hstopped, hstopped]⟩

/-- Settles O46: the run is as many units as the command has and two more, and these end it by `runSteps_accepted`. -/
theorem commandsEndInBoundedSteps : Obligations.CommandsEndInBoundedSteps := by
  unfold Obligations.CommandsEndInBoundedSteps
  intro i s hi ⟨_, heng, hc⟩ honly
  obtain ⟨hp, hr⟩ := running_freshEngine heng
  obtain ⟨g, hg⟩ := runFor_engineOnly hi (engineSteps i s) honly (.inl ⟨hp, hr⟩)
  refine ⟨_, hg, ?_⟩
  rcases runSteps_accepted hi hc heng le_rfl with ⟨-, e⟩ | ⟨k, e⟩ <;> rw [e] <;> exact ⟨rfl, rfl⟩

end Sys2Proof.Machine
